-- ==== Sys2Proof/Word.lean ====
section
/-! DEFINITION. The data units of TFS: the byte of the link, the 32-bit sample container, a Frame and a block
(spec/00_scope.md section 5.1, spec/10_state.md R16, R20). -/

namespace Sys2Proof

/-- A byte is 8 bits, bit 0 its least significant bit (00_scope.md 5.1). -/
abbrev Byte := BitVec 8

/-- An int32: 32 bits in two's complement; its value is `toInt` (00_scope.md 5.1). -/
abbrev Sample := BitVec 32

/-- A Frame is a sequence of payload bytes, without marker, length or checksum (R16). -/
abbrev Frame := List Byte

/-- A block is a sequence of int32 values (R20). -/
abbrev Block := List Sample

/-- The least value of the int24 range (00_scope.md 5.1). -/
abbrev int24Min : Int := -8388608

/-- The greatest value of the int24 range (00_scope.md 5.1). -/
abbrev int24Max : Int := 8388607

/-- The value of an int32 lies in the int24 range, `-2^23 .. 2^23 - 1` (00_scope.md 5.1). -/
abbrev inInt24 (x : Sample) : Prop := int24Min ≤ x.toInt ∧ x.toInt ≤ int24Max

end Sys2Proof
end

