-- ==== Sys2Proof/Config.lean ====
section
/-! DEFINITION. The implementation parameters of TFS (spec/00_scope.md R5), what the outside can present to the
machine, and the three free values of the model. -/

namespace Sys2Proof

/-- The rounding of a fractional product (R141): the spec's default, or an admissible function of which only the
four laws of R141 are known, numbered so that two configurations can name two functions (log entry 6). -/
inductive Narrow where
  | trunc
  | free (k : Nat)
deriving DecidableEq, Repr, Inhabited

/-- How far a render drain goes (R5, R134). -/
inductive DrainMode where
  | snapshot
  | untilEmpty
  | any
deriving DecidableEq, Repr, Inhabited

/-- The parameters of R5. `NCH` is the length of `capacity`, so a capacity exists exactly for `0 <= c < NCH`. -/
structure Config where
  /-- `M0`, first marker byte on the wire. -/
  m0 : Byte
  /-- `M1`, second marker byte on the wire. -/
  m1 : Byte
  /-- `PAYLOAD_SIZE`, bytes of payload per Frame. -/
  payloadSize : Nat
  /-- `K[c]` for every Channel `c`, in blocks; its length is `NCH`. -/
  capacity : List Nat
  /-- `INGRESS_DEPTH`, in Frames. -/
  ingressDepth : Nat
  /-- `PB_CH`; `none` when no Playback Engine is present (R6; log entry 12). -/
  pbCh : Option Nat
  /-- `GAIN`, an unsigned number of `gw` bits of which `gf` are fraction. -/
  gain : Nat
  gw : Nat
  gf : Nat
  /-- `narrow` of R141. -/
  narrow : Narrow
  /-- `ACC_CAP` in samples; `none` is unbounded. -/
  accCap : Option Nat
  /-- `NW`, width of `requestedFrameCount`. -/
  nw : Nat
  /-- `CNT_W`, width of every diagnostic counter. -/
  cntW : Nat
  /-- `DRAIN_MODE` of R134. -/
  drainMode : DrainMode
deriving DecidableEq, Repr, Inhabited

/-- The defaults of R5. For the parameters R5 leaves OPEN without a default (`K`, `INGRESS_DEPTH`, `GAIN`) the values
are the model's. DESIGN CHOICE, unsafe: a claim that used them would hold for one configuration only (log entry 5). -/
def Config.default : Config where
  m0 := 0xAA
  m1 := 0x55
  payloadSize := 512
  capacity := [4, 4]
  ingressDepth := 4
  pbCh := some 0
  gain := 0x0100
  gw := 16
  gf := 8
  narrow := .trunc
  accCap := none
  nw := 16
  cntW := 32
  drainMode := .any

/-- What the outside, or the free order of agents, can present to the machine as its next step (R35, R50, R68, R189).
DESIGN CHOICE (log entry 2). -/
inductive Input where
  /-- A stimulus word `STIM32` (R68). -/
  | stim (w : BitVec 32)
  /-- A byte on the wire, port `link_rx` (R81: "on the wire, the byte itself"). -/
  | link (b : Byte)
  /-- A container `CONT32` on the wire, as the 32-bit value of R62. -/
  | container (w : BitVec 32)
  /-- The bytes of a `FRAME` on the wire, marker first (R61). -/
  | frame (bytes : List Byte)
  /-- A sample at an output port, format `SAMP32` (R63). -/
  | sample (w : BitVec 32)
  /-- An amplification factor at a configuration input, format `GAINQ` (R65); its width `GW` is a parameter. -/
  | gain (w : Nat)
  /-- A transaction at the port `render_req`, which carries the `NW` bits of `RBEGIN n` (R220): also a request that the
  16 bits of a stimulus word cannot hold (log entry 29). -/
  | renderReq (n : Nat)
  /-- A whole call at the port `render_req`, that is `RENDER n` (R145), with a request of any size. DESIGN CHOICE: R220
  gives `RENDER` no port of its own (log entry 29). -/
  | renderCall (n : Nat)
  /-- A transaction at the port `pop_req[c]`, that is `POP c` (R220): also a Channel index that the 8 bits of a stimulus
  word cannot hold (log entry 29). -/
  | popReq (c : Nat)
  /-- A whole configuration at the configuration inputs `cfg_*` (R214 step 2, R220). -/
  | config (c : Config)
deriving DecidableEq, Repr, Inhabited

/-- A place inside one unit interval, as the fraction `num / den`, at which a rounding function goes from the lower
integer to the upper one; `inclusive` says which integer the place itself takes. -/
structure Cut where
  num : Nat
  den : Nat
  inclusive : Bool
deriving DecidableEq, Repr, Inhabited

/-- FREE VALUE (log entry 6): the cut of the admissible rounding function number `k` between `m` and `m + 1`. -/
opaque Config.narrowCut : Nat → Int → Cut

/-- FREE VALUE (log entry 13): the request taken over where the operand does not fit the `NW` bits of R131, by `NW` and the
operand. -/
opaque Config.freeRequest : Nat → Nat → Nat

/-- FREE VALUE (log entry 3): what the outside and the order of agents present at tick `t` once the script is empty. -/
opaque Config.freeInput : Nat → Input

end Sys2Proof
end

