-- ==== Sys2Proof/Syntax.lean ====
section
/-! DEFINITION. The instructions of TFS: one constructor per row of spec/opcode_table.json, that is the twelve
operations of R66, the four classes of a received byte (R67) and the four data formats (R61 to R63, R65). -/

namespace Sys2Proof

/-- One constructor per row of the opcode table. -/
inductive Instr where
  /-- `RXB b`: the link delivers byte `b` (R81 to R86). -/
  | rxb (b : Byte)
  /-- `TMO`: the link read in progress timed out (R87, R88). -/
  | tmo
  /-- `FETCH`: take a Frame, decode, correct, start the fan-out (R114). -/
  | fetch
  /-- `PUSH`: offer the block to the next Channel (R115, R116). -/
  | push
  /-- `POP c`: the consumer of Channel `c` pops one block (R120). -/
  | pop (c : Nat)
  /-- `RENDER n`: a whole `renderBlock(n)` call as one step (R145). -/
  | render (n : Nat)
  /-- `RBEGIN n`: start of a `renderBlock(n)` call (R132). -/
  | rbegin (n : Nat)
  /-- `RPOP`: one block from the playback Channel into the accumulator (R133). -/
  | rpop
  /-- `REND`: build the output block (R135). -/
  | rend
  /-- `STOP`: set the shutdown flag (R150). -/
  | stop
  /-- `RESTART`: restart synchronization after a `LinkTimeout` (R152). -/
  | restart
  /-- `RESET l`: reset all state; `l` is `link_ok` (R154). -/
  | reset (linkOk : Bool)
  /-- Class `SOF` of a byte received in `SEEKING`, by the window after the shift (`WIN16`; R64, R83). -/
  | sof (older newer : Byte)
  /-- Class `SKIP` of a byte received in `SEEKING`, by the window after the shift (R84). -/
  | skip (older newer : Byte)
  /-- Class `PAY` of a byte received in `READING_PAYLOAD` (R85). -/
  | pay (b : Byte)
  /-- Class `PAYLAST` of a byte received in `READING_PAYLOAD` (R86). -/
  | payLast (b : Byte)
  /-- Format `CONT32` (R62): garbage byte `g`, 24-bit sample `v`, on the wire. -/
  | cont32 (g : Byte) (v : BitVec 24)
  /-- Format `SAMP32` (R63): the 24-bit value `v` sign-extended, at an output port. -/
  | samp32 (v : BitVec 24)
  /-- Format `FRAME` (R61): the marker and this payload, on the wire. -/
  | frame (payload : List Byte)
  /-- Format `GAINQ` (R65): an amplification factor at the configuration input, a number of `GW` bits. -/
  | gainq (g : Nat)
deriving DecidableEq, Repr, Inhabited

/-- The agents of R8; the ByteLink acts only through the Reader (R66: "ByteLink to Reader"). -/
inductive Agent where
  | reader
  | processing
  | playback
  | consumer
  | controller
  | audioSink
deriving DecidableEq, Repr

/-- The agent that performs an operation (R66); the classes and the wire formats are the Reader's bytes (R67), a sample
at an output port is read by the Audio Sink (R40), a gain is presented by the Controller (R203, R220). -/
def Instr.agent : Instr → Agent
  | .rxb _ => .reader
  | .tmo => .reader
  | .fetch => .processing
  | .push => .processing
  | .pop _ => .consumer
  | .render _ => .playback
  | .rbegin _ => .playback
  | .rpop => .playback
  | .rend => .playback
  | .stop => .controller
  | .restart => .controller
  | .reset _ => .controller
  | .sof _ _ => .reader
  | .skip _ _ => .reader
  | .pay _ => .reader
  | .payLast _ => .reader
  | .cont32 _ _ => .reader
  | .samp32 _ => .audioSink
  | .frame _ => .reader
  | .gainq _ => .controller

/-- The formats of the opcode table (spec/opcode_table.json, column format). -/
inductive Format where
  | stim32
  | win16
  | byte8
  | cont32
  | samp32
  | frame
  | gainq
deriving DecidableEq, Repr

/-- The format the opcode table gives each row. -/
def Instr.format : Instr → Format
  | .rxb _ => .stim32
  | .tmo => .stim32
  | .fetch => .stim32
  | .push => .stim32
  | .pop _ => .stim32
  | .render _ => .stim32
  | .rbegin _ => .stim32
  | .rpop => .stim32
  | .rend => .stim32
  | .stop => .stim32
  | .restart => .stim32
  | .reset _ => .stim32
  | .sof _ _ => .win16
  | .skip _ _ => .win16
  | .pay _ => .byte8
  | .payLast _ => .byte8
  | .cont32 _ _ => .cont32
  | .samp32 _ => .samp32
  | .frame _ => .frame
  | .gainq _ => .gainq

/-- The mnemonic of R66 and of the opcode table. -/
def Instr.mnemonic : Instr → String
  | .rxb _ => "RXB"
  | .tmo => "TMO"
  | .fetch => "FETCH"
  | .push => "PUSH"
  | .pop _ => "POP"
  | .render _ => "RENDER"
  | .rbegin _ => "RBEGIN"
  | .rpop => "RPOP"
  | .rend => "REND"
  | .stop => "STOP"
  | .restart => "RESTART"
  | .reset _ => "RESET"
  | .sof _ _ => "SOF"
  | .skip _ _ => "SKIP"
  | .pay _ => "PAY"
  | .payLast _ => "PAYLAST"
  | .cont32 _ _ => "CONT32"
  | .samp32 _ => "SAMP32"
  | .frame _ => "FRAME"
  | .gainq _ => "GAINQ"

end Sys2Proof
end

