-- ==== Sys2Proof/WellFormed.lean ====
section
/-! DEFINITION. Which instructions their encodings can hold (R61, R68, R69). -/

namespace Sys2Proof

/-- An instruction its format can hold: a Channel index of 8 bits and a request of 16 bits in `STIM32` (R68), a payload
that is a whole, non-empty number of containers in `FRAME` (R5, R61). The width of a gain is the parameter `GW`, which
the decoder checks (R65). Every other operand is a bit vector of the field's own width. -/
def Instr.WellFormed : Instr → Bool
  | .rxb _ => true
  | .tmo => true
  | .fetch => true
  | .push => true
  | .pop c => decide (c < 2 ^ 8)
  | .render n => decide (n < 2 ^ 16)
  | .rbegin n => decide (n < 2 ^ 16)
  | .rpop => true
  | .rend => true
  | .stop => true
  | .restart => true
  | .reset _ => true
  | .sof _ _ => true
  | .skip _ _ => true
  | .pay _ => true
  | .payLast _ => true
  | .cont32 _ _ => true
  | .samp32 _ => true
  | .frame payload => decide (4 ≤ payload.length) && decide (payload.length % 4 = 0)
  | .gainq _ => true

end Sys2Proof
end

