-- ==== Sys2Proof/Decode.lean ====
section
/-! DEFINITION. Decoding and encoding. A stimulus word is decoded by its fields alone (R68, R69, R71); a byte on the
wire is decoded by the Frame Synchronizer's state and never by its value alone (R67); the data formats by their layout
(R61 to R63, R65). -/

namespace Sys2Proof

/-- What the Reader is doing with the link: searching, inside a payload read, or not reading (R11, R67). -/
inductive LinkPhase where
  | seeking
  | reading
  | resting
deriving DecidableEq, Repr

/-- All that the meaning of a wire byte depends on (R67), with the parameters that lay out a Frame and the width of a gain
at the configuration input (R65). -/
structure LinkCtx where
  phase : LinkPhase
  win : BitVec 16
  wcnt : Nat
  cnt : Nat
  m0 : Byte
  m1 : Byte
  payloadSize : Nat
  gw : Nat
deriving DecidableEq, Repr

/-- Why an input is no instruction. -/
inductive Reject where
  /-- A reserved `op` value, or a must-be-zero bit that is not zero (R71). -/
  | reservedWord (w : BitVec 32)
  /-- A 32-bit value that is not of format `SAMP32` (R63). -/
  | notASample (w : BitVec 32)
  /-- A number that does not fit the `GW` bits of format `GAINQ` (R65). -/
  | notAGain (w : Nat)
  /-- Bytes that are not the marker and exactly `PAYLOAD_SIZE` bytes (R61). -/
  | notAFrame
  /-- A configuration is an input of the machine but no row of the opcode table. -/
  | notAnInstruction
deriving DecidableEq, Repr

/-- The decoder's answer. -/
inductive Decoded where
  | ok (i : Instr)
  | reject (r : Reject)
deriving DecidableEq, Repr

/-! ## The window (R12, R64, R81, R82) -/

/-- `MARKER = {M0, M1}` (R44, R64). -/
def marker (m0 m1 : Byte) : BitVec 16 := m0 ++ m1

/-- The window after a byte is shifted in: the old newer byte becomes the older one (R81). -/
def shiftWindow (win : BitVec 16) (b : Byte) : BitVec 16 := win.extractLsb' 0 8 ++ b

/-- The older byte of the window after the shift, that is the newer byte before it (R81). -/
def olderAfter (win : BitVec 16) : Byte := win.extractLsb' 0 8

/-- The fill count after a byte is shifted in (R81). -/
def fillAfter (wcnt : Nat) : Nat := min (wcnt + 1) 2

/-- The match condition: two valid bytes, all 16 bits equal to the marker (R64, R82). -/
def windowMatches (win : BitVec 16) (wcnt : Nat) (b m0 m1 : Byte) : Bool :=
  decide (fillAfter wcnt = 2) && decide (shiftWindow win b = marker m0 m1)

/-! ## Decoding -/

/-- How a received byte is decoded (R67). The older byte a search shows is the register's; with an empty window that byte
has no meaning and decides nothing (R12; log entry 14). Where no class applies the byte is the bare operation `RXB`, which
is refused there (R89). -/
def decodeLink (x : LinkCtx) (b : Byte) : Instr :=
  match x.phase with
  | .seeking =>
    if windowMatches x.win x.wcnt b x.m0 x.m1 then .sof (olderAfter x.win) b else .skip (olderAfter x.win) b
  | .reading =>
    if x.cnt + 1 < x.payloadSize then .pay b
    else if x.cnt + 1 = x.payloadSize then .payLast b
    else .rxb b
  | .resting => .rxb b

/-- A word is accepted only with its must-be-zero fields zero (R71). -/
def unlessReserved (w : BitVec 32) (mbz : Bool) (i : Instr) : Decoded :=
  if mbz then .ok i else .reject (.reservedWord w)

/-- Decode a stimulus word: `op` in [31:24], `a` in [23:16], `imm` in [15:0] (R66, R68, R69, R71). -/
def decodeStim (w : BitVec 32) : Decoded :=
  let op := w.extractLsb' 24 8
  let a := w.extractLsb' 16 8
  let imm := w.extractLsb' 0 16
  let noA := decide (a = 0)
  let noImm := decide (imm = 0)
  if op = 0x01 then unlessReserved w (noA && decide (w.extractLsb' 8 8 = 0)) (.rxb (w.extractLsb' 0 8))
  else if op = 0x02 then unlessReserved w (noA && noImm) .tmo
  else if op = 0x10 then unlessReserved w (noA && noImm) .fetch
  else if op = 0x11 then unlessReserved w (noA && noImm) .push
  else if op = 0x20 then unlessReserved w noImm (.pop a.toNat)
  else if op = 0x21 then unlessReserved w noA (.render imm.toNat)
  else if op = 0x22 then unlessReserved w noA (.rbegin imm.toNat)
  else if op = 0x23 then unlessReserved w (noA && noImm) .rpop
  else if op = 0x24 then unlessReserved w (noA && noImm) .rend
  else if op = 0x30 then unlessReserved w (noA && noImm) .stop
  else if op = 0x31 then unlessReserved w (noA && noImm) .restart
  else if op = 0x3F then unlessReserved w (noA && decide (w.extractLsb' 1 15 = 0)) (.reset (w.getLsbD 0))
  else .reject (.reservedWord w)

/-- Decode a container on the wire: garbage in [31:24], the sample in [23:0] (R62). No value is rejected (R70). -/
def decodeContainer (w : BitVec 32) : Decoded := .ok (.cont32 (w.extractLsb' 24 8) (w.extractLsb' 0 24))

/-- Decode a sample: bits [31:24] all equal bit 23 (R63). -/
def decodeSample (w : BitVec 32) : Decoded :=
  let v := w.extractLsb' 0 24
  if w = v.signExtend 32 then .ok (.samp32 v) else .reject (.notASample w)

/-- Decode a whole Frame: the two marker bytes, then exactly `PAYLOAD_SIZE` bytes (R61). -/
def decodeFrame (x : LinkCtx) (bytes : List Byte) : Decoded :=
  match bytes with
  | b0 :: b1 :: payload =>
    if b0 = x.m0 ∧ b1 = x.m1 ∧ payload.length = x.payloadSize then .ok (.frame payload) else .reject .notAFrame
  | _ => .reject .notAFrame

/-- Decode an amplification factor: an unsigned number of `GW` bits (R65). -/
def decodeGain (x : LinkCtx) (w : Nat) : Decoded :=
  if w < 2 ^ x.gw then .ok (.gainq w) else .reject (.notAGain w)

/-- The decoder, total on every input. -/
def decode (x : LinkCtx) : Input → Decoded
  | .stim w => decodeStim w
  | .link b => .ok (decodeLink x b)
  | .container w => decodeContainer w
  | .frame bytes => decodeFrame x bytes
  | .sample w => decodeSample w
  | .gain w => decodeGain x w
  | .renderReq n => .ok (.rbegin n)
  | .renderCall n => .ok (.render n)
  | .popReq c => .ok (.pop c)
  | .config _ => .reject .notAnInstruction

/-- Whether an input may stand in a script: every stimulus word of a script must be one that is not reserved (R71). -/
def Input.admissible : Input → Bool
  | .stim w =>
    match decodeStim w with
    | .ok _ => true
    | .reject _ => false
  | _ => true

/-- The internal operations, which TFS takes by itself whenever they are enabled (R66, column kind). Every other row is
caused by an agent outside TFS. -/
def Instr.isInternal : Instr → Bool
  | .rxb _ => false
  | .tmo => false
  | .fetch => true
  | .push => true
  | .pop _ => false
  | .render _ => false
  | .rbegin _ => false
  | .rpop => true
  | .rend => true
  | .stop => false
  | .restart => false
  | .reset _ => false
  | .sof _ _ => false
  | .skip _ _ => false
  | .pay _ => false
  | .payLast _ => false
  | .cont32 _ _ => false
  | .samp32 _ => false
  | .frame _ => false
  | .gainq _ => false

/-- An input that is a step of TFS itself: the stimulus word of an internal operation (R66, R68). Every other input is one of
the outside (R189, R220). -/
def Input.isInternal : Input → Bool
  | .stim w =>
    match decodeStim w with
    | .ok i => i.isInternal
    | .reject _ => false
  | _ => false

/-! ## Encoding -/

/-- Assemble a stimulus word from its fields (R68). -/
def stimWord (op a : BitVec 8) (imm : BitVec 16) : BitVec 32 := op ++ a ++ imm

/-- The input that presents an instruction: the stimulus word of R66 and R68, or the format of the row. A class of a
received byte is presented by that byte (R67). -/
def encode (x : LinkCtx) : Instr → Input
  | .rxb b => .stim (stimWord 0x01 0 ((0 : BitVec 8) ++ b))
  | .tmo => .stim (stimWord 0x02 0 0)
  | .fetch => .stim (stimWord 0x10 0 0)
  | .push => .stim (stimWord 0x11 0 0)
  | .pop c => .stim (stimWord 0x20 (BitVec.ofNat 8 c) 0)
  | .render n => .stim (stimWord 0x21 0 (BitVec.ofNat 16 n))
  | .rbegin n => .stim (stimWord 0x22 0 (BitVec.ofNat 16 n))
  | .rpop => .stim (stimWord 0x23 0 0)
  | .rend => .stim (stimWord 0x24 0 0)
  | .stop => .stim (stimWord 0x30 0 0)
  | .restart => .stim (stimWord 0x31 0 0)
  | .reset l => .stim (stimWord 0x3F 0 ((0 : BitVec 15) ++ BitVec.ofBool l))
  | .sof _ newer => .link newer
  | .skip _ newer => .link newer
  | .pay b => .link b
  | .payLast b => .link b
  | .cont32 g v => .container (g ++ v)
  | .samp32 v => .sample (v.signExtend 32)
  | .frame payload => .frame (x.m0 :: x.m1 :: payload)
  | .gainq g => .gain g

/-- Whether a row can stand for what is delivered next: a class only where R67 classifies the byte so, a Frame only with
`PAYLOAD_SIZE` bytes (R61), a gain only within `GW` bits (R65); every other row always. `SKIP` on an empty window applies
whatever its older byte says, for that byte is no part of the window there (R12). -/
def Instr.fits (x : LinkCtx) : Instr → Bool
  | .sof older newer => decide (x.phase = .seeking) && (decide (older = olderAfter x.win) &&
      windowMatches x.win x.wcnt newer x.m0 x.m1)
  | .skip older newer => decide (x.phase = .seeking) && (decide (x.wcnt = 0 ∨ older = olderAfter x.win) &&
      !windowMatches x.win x.wcnt newer x.m0 x.m1)
  | .pay _ => decide (x.phase = .reading) && decide (x.cnt + 1 < x.payloadSize)
  | .payLast _ => decide (x.phase = .reading) && decide (x.cnt + 1 = x.payloadSize)
  | .frame payload => decide (payload.length = x.payloadSize)
  | .gainq g => decide (g < 2 ^ x.gw)
  | _ => true

/-! ## The host's table words -/

/-- The input that a word of the opcode table stands for, by the bits its row has: 32 for `STIM32`, 24 for the value
bits of `SAMP32` (the bits above are zero), 16 for `WIN16` (its newer byte is the one that arrives), 8 for a payload
byte (log entry 26). -/
def tableInput (nbits w : Nat) : Option Input :=
  if nbits = 32 then some (.stim (BitVec.ofNat 32 w))
  else if nbits = 24 then some (.sample (BitVec.ofNat 32 w))
  else if nbits = 16 then some (.link (BitVec.ofNat 8 w))
  else if nbits = 8 then some (.link (BitVec.ofNat 8 w))
  else none

/-- The link context in which the table's `WIN16` and payload-byte rows are read, under the default configuration. -/
def tableCtx (nbits w : Nat) : LinkCtx where
  phase := if nbits = 8 then .reading else .seeking
  win := BitVec.ofNat 16 (w / 256)
  wcnt := 1
  cnt := 0
  m0 := Config.default.m0
  m1 := Config.default.m1
  payloadSize := Config.default.payloadSize
  gw := Config.default.gw

/-- The instruction the decoder reads from a word numbered as the opcode table numbers it. -/
def decodeTableWord (nbits w : Nat) : Option Instr :=
  match tableInput nbits w with
  | none => none
  | some u =>
    match decode (tableCtx nbits w) u with
    | .ok i => some i
    | .reject _ => none

end Sys2Proof
end

