-- ==== Sys2Proof/Machine/Params.lean ====
section
/-! DEFINITION. Values derived from the configuration, and which configurations are legal (spec/00_scope.md R5, R6). -/

namespace Sys2Proof

/-- `NS`, samples per block (R5). -/
def Config.ns (c : Config) : Nat := c.payloadSize / 4

/-- `NCH`, number of Channels (R5). -/
def Config.nch (c : Config) : Nat := c.capacity.length

/-- `K[i]`, capacity of Channel `i` (R5); 0 where there is no such Channel. -/
def Config.cap (c : Config) (i : Nat) : Nat := c.capacity.getD i 0

/-- `PB_CH` names a Channel where a Playback Engine is present (R5, R6). -/
def Config.pbChLegal (c : Config) : Bool :=
  match c.pbCh with
  | none => true
  | some p => decide (p < c.nch)

/-- `ACC_CAP` is at least `NS`, or unbounded (R5). -/
def Config.accCapLegal (c : Config) : Bool :=
  match c.accCap with
  | none => true
  | some a => decide (c.ns ≤ a)

/-- Every parameter lies in its range of R5; any other configuration is refused (R6). -/
def Config.legal (c : Config) : Bool :=
  decide (c.payloadSize % 4 = 0) && (decide (4 ≤ c.payloadSize) && (c.capacity.all (fun k => decide (1 ≤ k)) &&
    (decide (1 ≤ c.ingressDepth) && (c.pbChLegal && (decide (c.gf ≤ c.gw) && (decide (c.gain < 2 ^ c.gw) &&
      (c.accCapLegal && (decide (1 ≤ c.nw) && decide (1 ≤ c.cntW)))))))))

end Sys2Proof
end

