-- ==== Sys2Proof/Machine/State.lean ====
section
/-! DEFINITION. The state of TFS (spec/10_state.md R10), its reset values (R36), the diagnostic events (spec/60_exceptions.md
R180), and the reasons a step is refused (R198). The state is plain data. -/

namespace Sys2Proof.Machine

/-- `fs.state` (R11). -/
inductive FsState where
  | seeking
  | readingPayload
  | halted
  | stopped
  | fatal
deriving DecidableEq, Repr

/-- `pr.state` (R11). -/
inductive PrState where
  | idle
  | pushing
deriving DecidableEq, Repr

/-- `pb.state` (R11). -/
inductive PbState where
  | idle
  | draining
deriving DecidableEq, Repr

/-- The diagnostic events of R180, each with its record fields. -/
inductive Event where
  /-- Code 1, raised by `TMO` while seeking (R87). -/
  | linkTimeout
  /-- Code 2, raised by `TMO` inside a payload (R88). -/
  | frameCorrupt (bytes : List Byte) (count : Nat)
  /-- Code 3, raised by `PUSH` at a full Channel (R116). -/
  | channelFull (channel : Nat)
  /-- Code 4, raised by `REND` on an underrun (R143). -/
  | playbackUnderrun (held requested : Nat)
  /-- Code 5, never raised by TFS (R180). -/
  | alignmentAmbiguous
  /-- Code 6, raised when a Frame completes and the ingress queue is full (R113). -/
  | ingressFull
deriving DecidableEq, Repr

/-- The Frame Synchronizer's registers (R10, R11 to R14). -/
structure Fs where
  state : FsState
  win : BitVec 16
  wcnt : Nat
  cnt : Nat
  buf : List Byte
deriving DecidableEq, Repr

/-- The Processing role's registers (R10, R19). -/
structure Pr where
  state : PrState
  block : Block
  idx : Nat
deriving DecidableEq, Repr

/-- A Channel with its drop counter: `ch[c]` and `drop_cnt[c]` (R21, R22). -/
structure Chan where
  blocks : List Block
  dropCnt : Nat
deriving DecidableEq, Repr

/-- The Playback Engine's registers (R10, R23 to R27). -/
structure Pb where
  state : PbState
  acc : List Sample
  req : Nat
  need : Nat
  drained : Nat
  out : List Sample
  underrunCnt : Nat
  starved : Bool
deriving DecidableEq, Repr

/-- The answer of a `POP` transaction: the Channel asked, and its block or `none` for empty (R120, R220). -/
structure PopRsp where
  channel : Nat
  block : Option Block
deriving DecidableEq, Repr

/-- What stands outside TFS: the configuration inputs (R220), whether they have changed since the last reset, also when they
were put back (R230; DESIGN CHOICE, log entry 7), the schedule still to be run (R68), whether the external agents do nothing more
once it is run (R156; log entry 30), and the tick of the free schedule (log entries 2, 3, 5). -/
structure Env where
  cfgIn : Config
  cfgMoved : Bool
  script : List Input
  outsideDone : Bool
  tick : Nat
deriving DecidableEq, Repr

/-- The outside at the start: a configuration presented, nothing scheduled, and the external agents still there (log
entries 2, 3, 5, 30). -/
def Env.start (c : Config) : Env where
  cfgIn := c
  cfgMoved := false
  script := []
  outsideDone := false
  tick := 0

/-- The whole machine: every row of R10, the latched configuration (R154), the last `POP` answer (log entry 11), and the
outside. -/
structure State where
  cfg : Config
  fs : Fs
  iq : List Frame
  iqDropCnt : Nat
  pr : Pr
  ch : List Chan
  pb : Pb
  stop : Bool
  diag : List Event
  popRsp : Option PopRsp
  env : Env
deriving DecidableEq, Repr

/-- TFS has no fault outcome of its own (R197): no constructor, so no step of the model ends in a fault (log entry 16). -/
inductive Fault where
deriving DecidableEq, Repr

/-- Why a step has no meaning (R198). Every one is safe: the run says nothing, so no claim can be proved of it. -/
inductive Refusal where
  /-- Raised by the dispatcher for an instruction that has no meaning yet. Safe. -/
  | notModelled (mnemonic : String)
  /-- Raised by every operation under a configuration outside R5, and by `RESET` when one is presented (R6). Safe. -/
  | illegalConfig
  /-- Raised by every operation but `RESET` when the configuration inputs differ from the latched ones or have changed
  since the last reset, and by a free step that runs one (R230). Safe. -/
  | configChanged
  /-- Raised by every operation but `RESET` in `FATAL` (R211). Safe. -/
  | linkFatal
  /-- Raised by `RXB` and `TMO` while the Reader has no read outstanding (R89). Safe. -/
  | readerNotReading
  /-- Raised by `RXB` inside a payload that is already complete, where no class of R67 applies; in no state that meets
  R37. Safe. -/
  | payloadComplete
  /-- Raised by `SOF`, `SKIP`, `PAY`, `PAYLAST` where R67 does not put the byte in that class, and by `FRAME` with a
  payload that is not `PAYLOAD_SIZE` bytes (R61). Safe. -/
  | rowDoesNotApply
  /-- Raised by `FETCH` where it is not enabled (R114, R198). Safe. -/
  | fetchNotEnabled
  /-- Raised by `PUSH` where it is not enabled (R115, R198). Safe. -/
  | pushNotEnabled
  /-- Raised by `POP c` with `c >= NCH` (R120). Safe. -/
  | noSuchChannel
  /-- Raised by `POP PB_CH` (R120). Safe. -/
  | playbackOwnsChannel
  /-- Raised by the playback operations where no Playback Engine is present (R6; log entry 12). Safe. -/
  | noPlaybackEngine
  /-- Raised by `RBEGIN` and `RENDER` while a call is in progress (R132, R225). Safe. -/
  | callsOverlap
  /-- Raised by `RPOP` where it is not enabled (R133, R134, R198). Safe. -/
  | rpopNotEnabled
  /-- Raised by `REND` where it is not enabled (R134, R198). Safe. -/
  | rendNotEnabled
  /-- Raised by `RESTART` outside `HALTED` (R152). Safe. -/
  | notHalted
  /-- Raised by the step when the script holds a reserved stimulus word: refused as a whole (R71). Safe. -/
  | reservedInScript
  /-- Raised by the step when the next input is no sample, no Frame and no gain although its format says so; the formats
  are R61, R63 and R65, the refusal is the model's DESIGN CHOICE (log entry 31). Safe. -/
  | malformedInput
deriving DecidableEq, Repr

/-- The state a `RESET` leaves (R36), under the configuration presented; the configuration inputs count as unchanged from
here on (R230; log entries 7, 25). `fs.win`, `fs.buf` and `pr.block` are unspecified in R36; the zeros are the model's.
DESIGN CHOICE, unsafe (log entry 4). -/
def State.afterReset (cfg : Config) (linkOk : Bool) (env : Env) : State where
  cfg := cfg
  fs := { state := if linkOk then .seeking else .fatal, win := 0, wcnt := 0, cnt := 0,
          buf := List.replicate cfg.payloadSize 0 }
  iq := []
  iqDropCnt := 0
  pr := { state := .idle, block := List.replicate cfg.ns 0, idx := 0 }
  ch := List.replicate cfg.nch { blocks := [], dropCnt := 0 }
  pb := { state := .idle, acc := [], req := 0, need := 0, drained := 0, out := [], underrunCnt := 0, starved := false }
  stop := false
  diag := []
  popRsp := none
  env := { env with cfgMoved := false }

/-- The machine right after `RESET 1` under the default configuration, with an empty schedule, the outside still there (R36,
R210; log entries 2 to 5, 30). -/
def State.reset : State :=
  State.afterReset Config.default true (Env.start Config.default)

end Sys2Proof.Machine
end

