-- ==== Sys2Proof/Machine/Ops.lean ====
section
/-! DEFINITION. The named operations: the byte buffer, the bounded queues (R110, R111), the Channels, raising a diagnostic
event (R180, R192), and the conditions every operation shares (R6, R211, R230). -/

namespace Sys2Proof.Machine

/-- The outcome of one operation. -/
abbrev Result := Host.Outcome State Fault Refusal

/-- Two operations of one uninterrupted run: the second from the state the first leaves (R145). -/
def andThen (r : Result) (k : State → Result) : Result :=
  match r with
  | .next s => k s
  | .fault f => .fault f
  | .refused q => .refused q

/-- An operation has no meaning where its enabling condition is false (R198). -/
def require (enabled : Bool) (q : Refusal) (k : Result) : Result :=
  if enabled then k else .refused q

/-- Why the machine as a whole runs no operation but `RESET`: an illegal configuration (R6), configuration inputs that
changed since the last reset, put back or not (R7, R230; log entry 7), the link could not be opened (R211). -/
def notRunning (s : State) : Option Refusal :=
  if s.cfg.legal = false then some .illegalConfig
  else if s.env.cfgMoved = true ∨ s.env.cfgIn ≠ s.cfg then some .configChanged
  else if s.fs.state = .fatal then some .linkFatal
  else none

/-- The common condition of every operation but `RESET`. -/
def whenRunning (s : State) (k : Result) : Result :=
  match notRunning s with
  | some q => .refused q
  | none => k

/-! ## Byte buffers (00_scope.md 5.2) -/

/-- `MemRead(buf, i, n)`: `n` bytes from index `i`, least significant first, as an unsigned number. -/
def memRead (buf : List Byte) (i : Nat) : Nat → Nat
  | 0 => 0
  | n + 1 => (buf.getD i 0).toNat + 256 * memRead buf (i + 1) n

/-- `MemWrite(buf, i, n, v)`: store the `n` low bytes of `v` from index `i`, least significant first. -/
def memWrite (buf : List Byte) (i : Nat) : Nat → Nat → List Byte
  | 0, _ => buf
  | n + 1, v => memWrite (buf.set i (BitVec.ofNat 8 v)) (i + 1) n (v / 256)

/-! ## Queues -/

/-- `push_drop(q, cap, e)`: append when there is room; the flag says accepted (R110). -/
def pushDrop {α : Type} (q : List α) (cap : Nat) (e : α) : List α × Bool :=
  if q.length < cap then (q ++ [e], true) else (q, false)

/-- `pop(q)`: the oldest element, or nothing, and what is left (R111). -/
def popQueue {α : Type} (q : List α) : Option α × List α :=
  match q with
  | [] => (none, [])
  | e :: rest => (some e, rest)

/-! ## Channels -/

/-- The content of Channel `c` (R21); empty where there is no such Channel. -/
def State.blocks (s : State) (c : Nat) : List Block :=
  match s.ch[c]? with
  | some k => k.blocks
  | none => []

/-- `drop_cnt[c]` (R22); 0 where there is no such Channel. -/
def State.dropCnt (s : State) (c : Nat) : Nat :=
  match s.ch[c]? with
  | some k => k.dropCnt
  | none => 0

/-- Replace the content of Channel `c`, and of no other. -/
def State.setBlocks (s : State) (c : Nat) (q : List Block) : State :=
  { s with ch := s.ch.modify c (fun k => { k with blocks := q }) }

/-! ## Diagnostic events: the stand-in for taking an exception (R192) -/

/-- Counters count modulo `2^CNT_W` (R195). -/
def bump (c : Config) (n : Nat) : Nat := (n + 1) % 2 ^ c.cntW

/-- The counter an event updates (R180, column counter). -/
def State.count (s : State) (e : Event) : State :=
  match e with
  | .linkTimeout => s
  | .frameCorrupt _ _ => s
  | .channelFull c => { s with ch := s.ch.modify c (fun k => { k with dropCnt := bump s.cfg k.dropCnt }) }
  | .playbackUnderrun _ _ => { s with pb := { s.pb with underrunCnt := bump s.cfg s.pb.underrunCnt } }
  | .alignmentAmbiguous => s
  | .ingressFull => { s with iqDropCnt := bump s.cfg s.iqDropCnt }

/-- `raise E(info)`: append the record and update the event's counter; control goes nowhere and nothing is saved (R33,
R192). -/
def State.raise (s : State) (e : Event) : State :=
  let t := s.count e
  { t with diag := t.diag ++ [e] }

/-- The numeric code of an event (R180). -/
def Event.code : Event → Nat
  | .linkTimeout => 1
  | .frameCorrupt _ _ => 2
  | .channelFull _ => 3
  | .playbackUnderrun _ _ => 4
  | .alignmentAmbiguous => 5
  | .ingressFull => 6

/-! ## The link context (R67) -/

/-- What the Reader is doing with the link. -/
def FsState.phase : FsState → LinkPhase
  | .seeking => .seeking
  | .readingPayload => .reading
  | .halted => .resting
  | .stopped => .resting
  | .fatal => .resting

/-- All that the meaning of the next wire byte depends on (R67), and the width of the gain input (R65). -/
def State.linkCtx (s : State) : LinkCtx where
  phase := s.fs.state.phase
  win := s.fs.win
  wcnt := s.fs.wcnt
  cnt := s.fs.cnt
  m0 := s.cfg.m0
  m1 := s.cfg.m1
  payloadSize := s.cfg.payloadSize
  gw := s.env.cfgIn.gw

end Sys2Proof.Machine
end

