-- ==== Sys2Proof/Machine/Operands.lean ====
section
/-! DEFINITION. Operand forms and sample arithmetic: the little-endian container (R43, R62), `decode` and `correct` (R100,
R101), the gain product, the clamp and the rounding (R138 to R142), the request width (R131). -/

namespace Sys2Proof.Machine

/-! ## Sample Decoder (R100, R101) -/

/-- A container from its four wire bytes, the first received the least significant (R43). -/
def containerOf (b0 b1 b2 b3 : Byte) : Sample := b3 ++ b2 ++ b1 ++ b0

/-- The four wire bytes of a container, in the order they are received (R62). -/
def containerBytes (g : Byte) (v : BitVec 24) : List Byte :=
  [v.extractLsb' 0 8, v.extractLsb' 8 8, v.extractLsb' 16 8, g]

/-- `decode`: group the payload into little-endian 32-bit containers (R100). A payload is a multiple of 4 bytes (R106). -/
def decodePayload : Frame → Block
  | b0 :: b1 :: b2 :: b3 :: rest => containerOf b0 b1 b2 b3 :: decodePayload rest
  | _ => []

/-- `shl32(v, 8)` then `asr32(_, 8)`: within 32 bits, so the garbage byte is lost and bit 23 fills [31:24] (R101). -/
def correctSample (raw : Sample) : Sample := (raw <<< 8).sshiftRight 8

/-- `correct`: the correction applied per element (R101). -/
def correctBlock (raw : Block) : Block := raw.map correctSample

/-! ## Gain, clamp, narrow (R138 to R142) -/

/-- `clamp(x, lo, hi)` (00_scope.md 5.1). -/
def clamp (x lo hi : Int) : Int := if x < lo then lo else if hi < x then hi else x

/-- Whether the free rounding function goes up at the fraction `f / 2^gf` above an integer, given its cut. -/
def cutGoesUp (c : Cut) (f gf : Nat) : Bool :=
  if c.inclusive then decide (c.num * 2 ^ gf ≤ f * c.den) else decide (c.num * 2 ^ gf < f * c.den)

/-- `narrow(q / 2^gf)` (R141): toward zero, or the free function given by its cut in every unit interval; the free form
has the four laws of R141 whatever the cuts are (log entry 6). -/
def narrowTo (n : Narrow) (q : Int) (gf : Nat) : Int :=
  match n with
  | .trunc => q.tdiv (2 ^ gf)
  | .free k =>
    let m := q / 2 ^ gf
    let f := (q % 2 ^ gf).toNat
    if f = 0 then m
    else if cutGoesUp (Config.narrowCut k m) f gf then m + 1
    else m

/-- The product `p = s * GAIN`, exact (R138). -/
def gainProduct (c : Config) (x : Sample) : Int := x.toInt * (c.gain : Int)

/-- The lower bound of the clamp, scaled by `2^GF` (R140). -/
def clampLo (c : Config) : Int := int24Min * 2 ^ c.gf

/-- The upper bound of the clamp, scaled by `2^GF` (R140). -/
def clampHi (c : Config) : Int := int24Max * 2 ^ c.gf

/-- `gainclip(s)`: multiply, clamp in the wide type, narrow, store as an int32 (R138 to R142). -/
def gainclip (c : Config) (x : Sample) : Sample :=
  BitVec.ofInt 32 (narrowTo c.narrow (clamp (gainProduct c x) (clampLo c) (clampHi c)) c.gf)

/-- The request a call latches, an unsigned number of `NW` bits (R131): the operand where it fits. DESIGN CHOICE: where it
does not, the spec states no value and some number of `NW` bits is taken, a free value (log entry 13). -/
def latchedRequest (c : Config) (n : Nat) : Nat :=
  if n < 2 ^ c.nw then n else Config.freeRequest c.nw n % 2 ^ c.nw

end Sys2Proof.Machine
end

