-- ==== Sys2Proof/Machine/Fanout.lean ====
section
/-! DEFINITION. The Processing role and the Channels: `FETCH`, `PUSH`, `POP` (spec/42_fanout.md). -/

namespace Sys2Proof.Machine

/-- `FETCH` is enabled: idle, a Frame waiting, not stopped (R114). -/
def fetchEnabled (s : State) : Bool :=
  decide (s.pr.state = .idle) && (!s.iq.isEmpty && !s.stop)

/-- A Frame is taken, decoded and corrected; with no Channel the block is discarded (R114). -/
def fetchFrame (f : Frame) (rest : List Frame) (s : State) : State :=
  if s.cfg.nch = 0 then { s with iq := rest }
  else { s with iq := rest, pr := { state := .pushing, block := correctBlock (decodePayload f), idx := 0 } }

/-- `FETCH` (R114). -/
def execFetch (s : State) : Result :=
  whenRunning s (require (fetchEnabled s) .fetchNotEnabled
    (match popQueue s.iq with
     | (some f, rest) => .next (fetchFrame f rest s)
     | (none, _) => .refused .fetchNotEnabled))

/-- `PUSH` is enabled: a block is being fanned out (R115), to a Channel that exists (R37). -/
def pushEnabled (s : State) : Bool :=
  decide (s.pr.state = .pushing) && decide (s.pr.idx < s.cfg.nch)

/-- The block is offered to Channel `c`: appended, or dropped, counted and reported (R115, R116). -/
def offerBlock (c : Nat) (s : State) : State :=
  match pushDrop (s.blocks c) (s.cfg.cap c) s.pr.block with
  | (q, true) => s.setBlocks c q
  | (_, false) => s.raise (.channelFull c)

/-- The fan-out goes on to the next Channel, or ends (R115). -/
def advanceFanout (p : Pr) (nch : Nat) : Pr :=
  if p.idx + 1 < nch then { p with idx := p.idx + 1 } else { p with idx := 0, state := .idle }

/-- One `PUSH` step (R115, R116). -/
def pushBlock (s : State) : State :=
  { offerBlock s.pr.idx s with pr := advanceFanout s.pr s.cfg.nch }

/-- `PUSH` (R115 to R117). -/
def execPush (s : State) : Result :=
  whenRunning s (require (pushEnabled s) .pushNotEnabled (.next (pushBlock s)))

/-- The oldest block of Channel `c` goes to its consumer, or the answer is empty (R111, R120). -/
def popChannel (c : Nat) (s : State) : State :=
  { s.setBlocks c (popQueue (s.blocks c)).2 with
    popRsp := some { channel := c, block := (popQueue (s.blocks c)).1 } }

/-- `POP c` (R120). -/
def execPop (c : Nat) (s : State) : Result :=
  whenRunning s (require (decide (c < s.cfg.nch)) .noSuchChannel
    (require (decide (s.cfg.pbCh ≠ some c)) .playbackOwnsChannel (.next (popChannel c s))))

end Sys2Proof.Machine
end

