-- ==== Sys2Proof/Machine/Flags.lean ====
section
/-! DEFINITION. The flags of TFS (R32): the shutdown flag as the Reader sees it at its boundary (R90), and the standing
starved diagnostic (R144). -/

namespace Sys2Proof.Machine

/-- `fs_next()`: where the Reader goes at the end of an iteration (R90). -/
def fsNext (s : State) : FsState := if s.stop then .stopped else .seeking

/-- Where a `TMO` leaves a searching Reader (R87). -/
def haltNext (s : State) : FsState := if s.stop then .stopped else .halted

/-- The call underran: the accumulator held fewer samples than requested (R137). -/
def underran (s : State) : Bool := decide (s.pb.acc.length < s.pb.req)

/-- `starved` after a `REND`: the call underran and its drain popped no block (R144). -/
def starvedAfter (s : State) : Bool := underran s && decide (s.pb.drained = 0)

end Sys2Proof.Machine
end

