-- ==== Sys2Proof/Machine/FrameSync.lean ====
section
/-! DEFINITION. The Frame Synchronizer: `RXB`, `TMO`, the four classes of a received byte, and the wire formats `FRAME`
and `CONT32` (spec/40_frame_sync.md). -/

namespace Sys2Proof.Machine

/-- Replace the Frame Synchronizer's registers. -/
def State.setFs (s : State) (f : Fs) : State := { s with fs := f }

/-- `SOF`: the marker is found and the window emptied (R83). -/
def takeSof (s : State) : State :=
  s.setFs { s.fs with state := .readingPayload, cnt := 0, wcnt := 0 }

/-- `SKIP`: the window keeps sliding (R84). -/
def takeSkip (b : Byte) (s : State) : State :=
  s.setFs { s.fs with win := shiftWindow s.fs.win b, wcnt := fillAfter s.fs.wcnt }

/-- `PAY`: store the byte at index `fs.cnt` (R85). -/
def takePay (b : Byte) (s : State) : State :=
  s.setFs { s.fs with buf := memWrite s.fs.buf s.fs.cnt 1 b.toNat, cnt := s.fs.cnt + 1 }

/-- `ingress_push(F)`: append the Frame, or drop it, count it and raise `IngressFull` (R113). -/
def ingressPush (f : Frame) (s : State) : State :=
  match pushDrop s.iq s.cfg.ingressDepth f with
  | (q, true) => { s with iq := q }
  | (_, false) => s.raise .ingressFull

/-- The Frame that the last payload byte completes, in arrival order (R86). -/
def completedFrame (b : Byte) (s : State) : Frame := s.fs.buf.take (s.cfg.payloadSize - 1) ++ [b]

/-- `PAYLAST`: store the byte, hand over the Frame, end the iteration (R67, R86). -/
def takePayLast (b : Byte) (s : State) : State :=
  (ingressPush (completedFrame b s) s).setFs
    { s.fs with buf := memWrite s.fs.buf s.fs.cnt 1 b.toNat, cnt := 0, wcnt := 0, state := fsNext s }

/-- The Reader takes one byte from the link (R81 to R86, R89). -/
def readByte (b : Byte) (s : State) : Result :=
  match s.fs.state with
  | .seeking =>
    if windowMatches s.fs.win s.fs.wcnt b s.cfg.m0 s.cfg.m1 then .next (takeSof s) else .next (takeSkip b s)
  | .readingPayload =>
    if s.fs.cnt + 1 < s.cfg.payloadSize then .next (takePay b s)
    else if s.fs.cnt + 1 = s.cfg.payloadSize then .next (takePayLast b s)
    else .refused .payloadComplete
  | .halted => .refused .readerNotReading
  | .stopped => .refused .readerNotReading
  | .fatal => .refused .readerNotReading

/-- `BYTES`: bytes delivered one after the other (R74). -/
def readBytes : List Byte → State → Result
  | [], s => .next s
  | b :: rest, s => andThen (readByte b s) (readBytes rest)

/-- A read that timed out while searching (R87). -/
def timeoutSeeking (s : State) : State :=
  (s.raise .linkTimeout).setFs { s.fs with wcnt := 0, state := haltNext s }

/-- A payload read cut short: the partial bytes go out on the record and nowhere else (R88). -/
def timeoutPayload (s : State) : State :=
  (s.raise (.frameCorrupt (s.fs.buf.take s.fs.cnt) s.fs.cnt)).setFs
    { s.fs with cnt := 0, wcnt := 0, state := fsNext s }

/-- The link reports that the read in progress timed out (R87 to R89). -/
def readTimeout (s : State) : Result :=
  match s.fs.state with
  | .seeking => .next (timeoutSeeking s)
  | .readingPayload => .next (timeoutPayload s)
  | .halted => .refused .readerNotReading
  | .stopped => .refused .readerNotReading
  | .fatal => .refused .readerNotReading

/-- `RXB b` (R81 to R86). -/
def execRxb (b : Byte) (s : State) : Result := whenRunning s (readByte b s)

/-- `TMO` (R87, R88). -/
def execTmo (s : State) : Result := whenRunning s (readTimeout s)

/-- `SOF`: a byte that completes the marker (R67, R83). -/
def execSof (older newer : Byte) (s : State) : Result :=
  whenRunning s (require (Instr.fits s.linkCtx (.sof older newer)) .rowDoesNotApply (.next (takeSof s)))

/-- `SKIP`: a byte of the search that completes no marker (R67, R84). -/
def execSkip (older newer : Byte) (s : State) : Result :=
  whenRunning s (require (Instr.fits s.linkCtx (.skip older newer)) .rowDoesNotApply (.next (takeSkip newer s)))

/-- `PAY`: a payload byte that is not the last (R67, R85). -/
def execPay (b : Byte) (s : State) : Result :=
  whenRunning s (require (Instr.fits s.linkCtx (.pay b)) .rowDoesNotApply (.next (takePay b s)))

/-- `PAYLAST`: the last payload byte (R67, R86). -/
def execPayLast (b : Byte) (s : State) : Result :=
  whenRunning s (require (Instr.fits s.linkCtx (.payLast b)) .rowDoesNotApply (.next (takePayLast b s)))

/-- `CONT32` on the wire: the link delivers the container's four bytes, least significant first (R62; log entry 10). -/
def execCont32 (g : Byte) (v : BitVec 24) (s : State) : Result :=
  whenRunning s (readBytes (containerBytes g v) s)

/-- `FRAME` on the wire: the link delivers the marker, then the payload (R61, R74; log entry 10). -/
def execFrame (payload : List Byte) (s : State) : Result :=
  whenRunning s (require (Instr.fits s.linkCtx (.frame payload)) .rowDoesNotApply
    (readBytes (s.cfg.m0 :: s.cfg.m1 :: payload) s))

end Sys2Proof.Machine
end

