-- ==== Sys2Proof/Machine/Playback.lean ====
section
/-! DEFINITION. The Playback Engine: `RBEGIN`, `RPOP`, `REND`, `RENDER`, and a sample at an output port
(spec/43_playback.md). -/

namespace Sys2Proof.Machine

/-- The playback operations act on Channel `PB_CH`, where a Playback Engine is present (R6, R130; log entry 12). -/
def withPlayback (s : State) (k : Nat → Result) : Result :=
  match s.cfg.pbCh with
  | none => .refused .noPlaybackEngine
  | some c => k c

/-- Replace the Playback Engine's registers. -/
def State.setPb (s : State) (p : Pb) : State := { s with pb := p }

/-- `RPOP` is blocked by `ACC_CAP`: another block would not fit (R133, R134, R148). -/
def rpopBlocked (s : State) : Bool :=
  match s.cfg.accCap with
  | none => false
  | some a => decide (a < s.pb.acc.length + s.cfg.ns)

/-- `REND` is enabled (R134): the blocks present at the call are popped, or `RPOP` is blocked; with `until_empty` the
Channel must be empty besides. -/
def rendEnabled (c : Nat) (s : State) : Bool :=
  decide (s.pb.state = .draining) &&
    (rpopBlocked s ||
      match s.cfg.drainMode with
      | .snapshot => decide (s.pb.need = 0)
      | .untilEmpty => decide (s.pb.need = 0) && (s.blocks c).isEmpty
      | .any => decide (s.pb.need = 0))

/-- `RPOP` is enabled (R133); with `snapshot` only while `REND` is not, because `REND` is then taken first (R134; log
entry 15). -/
def rpopEnabled (c : Nat) (s : State) : Bool :=
  decide (s.pb.state = .draining) && (!(s.blocks c).isEmpty && (!rpopBlocked s &&
    match s.cfg.drainMode with
    | .snapshot => decide (s.pb.need ≠ 0)
    | .untilEmpty => true
    | .any => true))

/-- A call arrives (R132), with the request of R131. -/
def beginRender (n c : Nat) (s : State) : State :=
  s.setPb { s.pb with req := latchedRequest s.cfg n, need := (s.blocks c).length, drained := 0, state := .draining }

/-- One block goes from the Channel to the tail of the accumulator (R133). -/
def drainBlock (c : Nat) (s : State) : State :=
  match popQueue (s.blocks c) with
  | (none, _) => s
  | (some b, rest) =>
    (s.setBlocks c rest).setPb
      { s.pb with acc := s.pb.acc ++ b, need := s.pb.need - 1, drained := s.pb.drained + 1 }

/-- The output block: the oldest samples through the gain stage, then silence up to the request (R135 to R137, R142). -/
def outputBlock (s : State) : List Sample :=
  (s.pb.acc.take s.pb.req).map (gainclip s.cfg) ++ List.replicate (s.pb.req - s.pb.acc.length) 0

/-- The registers a `REND` leaves, before the underrun diagnostic (R135, R144). -/
def rendered (s : State) : State :=
  s.setPb { s.pb with out := outputBlock s, acc := s.pb.acc.drop s.pb.req, state := .idle, starved := starvedAfter s }

/-- Build the output block and return (R135, R143). -/
def endRender (s : State) : State :=
  if underran s then (rendered s).raise (.playbackUnderrun s.pb.acc.length s.pb.req) else rendered s

/-- `RPOP` repeated while it is enabled, at most `fuel` times (R145). -/
def drainWhile (c : Nat) : Nat → State → State
  | 0, s => s
  | fuel + 1, s => if rpopEnabled c s then drainWhile c fuel (drainBlock c s) else s

/-- `RBEGIN n` (R132). -/
def execRbegin (n : Nat) (s : State) : Result :=
  whenRunning s (withPlayback s (fun c =>
    require (decide (s.pb.state = .idle)) .callsOverlap (.next (beginRender n c s))))

/-- `RPOP` (R133). -/
def execRpop (s : State) : Result :=
  whenRunning s (withPlayback s (fun c => require (rpopEnabled c s) .rpopNotEnabled (.next (drainBlock c s))))

/-- `REND` (R134 to R144). -/
def execRend (s : State) : Result :=
  whenRunning s (withPlayback s (fun c => require (rendEnabled c s) .rendNotEnabled (.next (endRender s))))

/-- The drain and the end of a whole call; a Channel of `k` blocks is popped at most `k` times (R145). -/
def finishRender (c : Nat) (s : State) : Result :=
  let t := drainWhile c (s.blocks c).length s
  require (rendEnabled c t) .rendNotEnabled (.next (endRender t))

/-- `RENDER n` (R145). -/
def execRender (n : Nat) (s : State) : Result :=
  whenRunning s (withPlayback s (fun c =>
    require (decide (s.pb.state = .idle)) .callsOverlap (finishRender c (beginRender n c s))))

/-- `SAMP32`: the Audio Sink or a consumer reads a sample at an output port, "Reads without side effects" (R47, R63; log
entry 10). -/
def execSamp32 (_v : BitVec 24) (s : State) : Result := .next s

end Sys2Proof.Machine
end

