-- ==== Sys2Proof/Machine/System.lean ====
section
/-! DEFINITION. The Controller's operations: `STOP`, `RESTART`, `RESET`, and the configuration inputs
(spec/44_system_ops.md, spec/70_reset_and_hazards.md). -/

namespace Sys2Proof.Machine

/-- `STOP` (R150). -/
def execStop (s : State) : Result := whenRunning s (.next { s with stop := true })

/-- The Reader begins a new search with an empty window, or stops (R152): the return from a `LinkTimeout` (R193). -/
def restartReader (s : State) : State := { s with fs := { s.fs with wcnt := 0, cnt := 0, state := fsNext s } }

/-- `RESTART` (R152). -/
def execRestart (s : State) : Result :=
  whenRunning s (require (decide (s.fs.state = .halted)) .notHalted (.next (restartReader s)))

/-- `RESET l`: every piece of state to its reset value under the configuration presented (R154, R210). The outside is no
state of TFS and stays. An illegal configuration is refused (R6). -/
def execReset (linkOk : Bool) (s : State) : Result :=
  require s.env.cfgIn.legal .illegalConfig (.next (State.afterReset s.env.cfgIn linkOk s.env))

/-- A configuration is presented on the inputs `cfg_*`; it is latched by the next `RESET` (R214, R220). One that differs
from what was presented is a change of the inputs, which is remembered until then (R230; log entry 7). -/
def presentConfig (c : Config) (s : State) : State :=
  { s with env := { s.env with cfgIn := c, cfgMoved := s.env.cfgMoved || decide (c ≠ s.env.cfgIn) } }

/-- `GAINQ`: an amplification factor is presented on its configuration input (R65, R220; log entry 10). A number beyond
`GW` bits, which the decoder does not let pass, would be an illegal configuration and refused by `RESET` (R5, R6). -/
def execGainq (g : Nat) (s : State) : Result := .next (presentConfig { s.env.cfgIn with gain := g } s)

end Sys2Proof.Machine
end

