-- ==== Sys2Proof/Machine/Dispatch.lean ====
section
/-! DEFINITION. One arm per constructor of Instr, each a direct call of its meaning. -/

namespace Sys2Proof.Machine

def exec (i : Instr) (s : State) : Host.Outcome State Fault Refusal :=
  match i with
  | .rxb b => Sys2Proof.Machine.execRxb b s
  | .tmo => Sys2Proof.Machine.execTmo s
  | .fetch => Sys2Proof.Machine.execFetch s
  | .push => Sys2Proof.Machine.execPush s
  | .pop c => Sys2Proof.Machine.execPop c s
  | .render n => Sys2Proof.Machine.execRender n s
  | .rbegin n => Sys2Proof.Machine.execRbegin n s
  | .rpop => Sys2Proof.Machine.execRpop s
  | .rend => Sys2Proof.Machine.execRend s
  | .stop => Sys2Proof.Machine.execStop s
  | .restart => Sys2Proof.Machine.execRestart s
  | .reset l => Sys2Proof.Machine.execReset l s
  | .sof older newer => Sys2Proof.Machine.execSof older newer s
  | .skip older newer => Sys2Proof.Machine.execSkip older newer s
  | .pay b => Sys2Proof.Machine.execPay b s
  | .payLast b => Sys2Proof.Machine.execPayLast b s
  | .cont32 g v => Sys2Proof.Machine.execCont32 g v s
  | .samp32 v => Sys2Proof.Machine.execSamp32 v s
  | .frame payload => Sys2Proof.Machine.execFrame payload s
  | .gainq g => Sys2Proof.Machine.execGainq g s

end Sys2Proof.Machine
end

