-- ==== Sys2Proof/Machine/Fetch.lean ====
section
/-! DEFINITION. How the next input comes to the machine: the head of the schedule, decoded with the link's context (R50,
R67, R68, R71; log entries 2 and 3). -/

namespace Sys2Proof.Machine

/-- What an input amounts to: an instruction to run, a state already reached, or no meaning. -/
inductive Fetched where
  | instr (i : Instr)
  | done (t : State)
  | refused (q : Refusal)
deriving DecidableEq, Repr

/-- The refusal that names a decoder's rejection: of a reserved word as R71 and R198 say, of an input that is not of its
format by the model's choice (log entry 31). -/
def rejection : Reject → Refusal
  | .reservedWord _ => .reservedInScript
  | .notASample _ => .malformedInput
  | .notAGain _ => .malformedInput
  | .notAFrame => .malformedInput
  | .notAnInstruction => .malformedInput

/-- Take one input: a configuration goes to the configuration inputs, anything else is decoded. -/
def fetchInput (u : Input) (s : State) : Fetched :=
  match u with
  | .config c => .done (presentConfig c s)
  | u =>
    match decode s.linkCtx u with
    | .ok i => .instr i
    | .reject r => .refused (rejection r)

/-- A script that holds a reserved stimulus word is refused as a whole (R71). -/
def State.scriptAdmissible (s : State) : Bool := s.env.script.all Input.admissible

/-- The state with another schedule. -/
def State.withScript (s : State) (script : List Input) : State := { s with env := { s.env with script := script } }

/-- The refusals that leave a run without meaning whoever chose the step: the conditions of V3 and V4
(93_implementation_defined.md). Every other refusal of a free choice only says that it was not enabled (R50, R196). -/
def Refusal.endsRun (q : Refusal) : Bool := decide (q = .illegalConfig) || decide (q = .configChanged)

/-- What the free schedule presents next, if anything: an input of the outside only while the external agents still do
something (R50, R156; log entries 3, 30). -/
def freeChoice (s : State) : Option Input :=
  let u := Config.freeInput s.env.tick
  if s.env.outsideDone && !u.isInternal then none else some u

/-- The state after one tick of the free schedule. -/
def State.ticked (s : State) : State := { s with env := { s.env with tick := s.env.tick + 1 } }

/-- Put an input at the head of the schedule. -/
def State.placeInput (s : State) (u : Input) : State := s.withScript (u :: s.env.script)

/-- Bring the Reader to the state in which a wire byte is read as a class of the table's row: for `WIN16` a search whose
window holds the older byte, for a payload byte a payload read at its start (log entry 26). -/
def State.placeReader (s : State) (nbits w : Nat) : State :=
  if nbits = 16 then { s with fs := { s.fs with state := .seeking, win := BitVec.ofNat 16 (w / 256), wcnt := 1 } }
  else if nbits = 8 then { s with fs := { s.fs with state := .readingPayload, cnt := 0 } }
  else s

end Sys2Proof.Machine
end

