-- ==== Sys2Proof/Machine/Step.lean ====
section
/-! DEFINITION. One step: the next input of the schedule is taken and run; where the schedule is empty the free schedule
chooses (R35, R50; log entries 2 and 3). -/

namespace Sys2Proof.Machine

/-- Take an input and run what it decodes to. -/
def runInput (u : Input) (s : State) : Host.Outcome State Fault Refusal :=
  match fetchInput u s with
  | .instr i => exec i s
  | .done t => .next t
  | .refused q => .refused q

/-- A step whose choice is free: an operation that is not enabled is not taken, and then no agent moves (R50, R196). Under
an illegal configuration or changed configuration inputs there is no meaning to go on with (R6, R230). -/
def freeStep (u : Input) (s : State) : Host.Outcome State Fault Refusal :=
  match runInput u s with
  | .next t => .next t
  | .fault f => .fault f
  | .refused q => if q.endsRun then .refused q else .next s

/-- One step of the machine. With the schedule run and nothing presented freely no agent moves (R196). -/
def step (s : State) : Host.Outcome State Fault Refusal :=
  match s.env.script with
  | [] =>
    match freeChoice s with
    | some u => freeStep u s.ticked
    | none => .next s.ticked
  | u :: rest => if s.scriptAdmissible then runInput u (s.withScript rest) else .refused .reservedInScript

/-- The state whose next step runs the instruction of a table word: the word at the head of the schedule, and for a class
of a received byte the Reader where the byte is of that class (log entry 26). -/
def State.withFetchWord (s : State) (nbits w : Nat) : State :=
  match tableInput nbits w with
  | none => s
  | some u => (s.placeReader nbits w).placeInput u

end Sys2Proof.Machine
end

