-- ==== Sys2Proof/Machine/Script.lean ====
section
/-! DEFINITION. The pseudo-operations of the script syntax (spec/30_encoding.md R73, R74), as the schedules they expand
to. -/

namespace Sys2Proof.Machine

/-- The stimulus words of a list of operations, in order (R68). -/
def scriptOf (x : LinkCtx) (is : List Instr) : List Input := is.map (encode x)

/-- `BYTES b0 b1 ... bk` (R74). -/
def opsBytes (bytes : List Byte) : List Instr := bytes.map Instr.rxb

/-- `MARK` (R74). -/
def opsMark (c : Config) : List Instr := [.rxb c.m0, .rxb c.m1]

/-- `FRAME b0 ... b(P-1)`, the expansion (R74). -/
def opsFrame (c : Config) (payload : List Byte) : List Instr := opsMark c ++ opsBytes payload

/-- `ZFRAME` (R74). -/
def opsZFrame (c : Config) : List Instr := opsFrame c (List.replicate c.payloadSize 0)

/-- `PROCESS` (R74). -/
def opsProcess (c : Config) : List Instr := .fetch :: List.replicate c.nch .push

/-- `REPT k` (R74). -/
def opsRept (k : Nat) (is : List Instr) : List Instr := (List.replicate k is).flatten

/-- The line of the script syntax for an operation, numbers in decimal; a row that is no operation has none (R73). -/
def scriptLine : Instr → Option String
  | .rxb b => some ("RXB " ++ b.toNat.repr)
  | .tmo => some "TMO"
  | .fetch => some "FETCH"
  | .push => some "PUSH"
  | .pop c => some ("POP " ++ c.repr)
  | .render n => some ("RENDER " ++ n.repr)
  | .rbegin n => some ("RBEGIN " ++ n.repr)
  | .rpop => some "RPOP"
  | .rend => some "REND"
  | .stop => some "STOP"
  | .restart => some "RESTART"
  | .reset l => some (if l then "RESET 1" else "RESET 0")
  | .sof _ _ => none
  | .skip _ _ => none
  | .pay _ => none
  | .payLast _ => none
  | .cont32 _ _ => none
  | .samp32 _ => none
  | .frame _ => none
  | .gainq _ => none

end Sys2Proof.Machine
end

