-- ==== Sys2Proof/Machine/Status.lean ====
section
/-! DEFINITION. The status outputs (spec/10_state.md R30): read-only, without side effect (R47). -/

namespace Sys2Proof.Machine

/-- The status registers of R30, as the ports `st_*` show them (R220). -/
structure Status where
  dropCnt : List Nat
  iqDropCnt : Nat
  underrunCnt : Nat
  starved : Bool
  fsState : FsState
  iqLen : Nat
  chLen : List Nat
deriving DecidableEq, Repr

/-- What the Controller can read at any time (R30, R203). -/
def State.status (s : State) : Status where
  dropCnt := s.ch.map Chan.dropCnt
  iqDropCnt := s.iqDropCnt
  underrunCnt := s.pb.underrunCnt
  starved := s.pb.starved
  fsState := s.fs.state
  iqLen := s.iq.length
  chLen := s.ch.map (fun k => k.blocks.length)

/-- The Reader accepts a byte or a timeout on its ports (R220). -/
def State.acceptsLink (s : State) : Bool :=
  decide (s.fs.state = .seeking) || decide (s.fs.state = .readingPayload)

end Sys2Proof.Machine
end

