-- ==== Sys2Proof/Safety.lean ====
section
/-! DEFINITION. The terms claims use: when the machine runs, runs of several operations, the invariant of
spec/10_state.md R37, the end of a run (spec/44_system_ops.md R156), and what passes through a Channel (R51). -/

namespace Sys2Proof.Machine

/-! ## When operations run -/

/-- The configuration inputs are as they were latched and have not changed since the reset (R7, R230). -/
abbrev InputsStable (s : State) : Prop := s.env.cfgMoved = false ∧ s.env.cfgIn = s.cfg

/-- The machine runs its operations: a legal configuration (R6), configuration inputs unchanged since the reset (R7, R230),
the link open (R211). -/
abbrev Running (s : State) : Prop :=
  s.cfg.legal = true ∧ InputsStable s ∧ s.fs.state ≠ .fatal

/-- The accumulator has no room for another block: `len(pb.acc) + NS > ACC_CAP` (R133, R134). -/
abbrev AccFull (s : State) : Prop :=
  match s.cfg.accCap with
  | none => False
  | some a => a < s.pb.acc.length + s.cfg.ns

/-- `REND` is enabled, as R134 says for each `DRAIN_MODE`; `c` is `PB_CH`. -/
abbrev RendReady (c : Nat) (s : State) : Prop :=
  s.pb.state = .draining ∧ (AccFull s ∨ (s.pb.need = 0 ∧ (s.cfg.drainMode = .untilEmpty → s.blocks c = [])))

/-- `RPOP` is enabled, as R133 and R134 say; `c` is `PB_CH`. -/
abbrev RpopReady (c : Nat) (s : State) : Prop :=
  s.pb.state = .draining ∧ s.blocks c ≠ [] ∧ ¬ AccFull s ∧ (s.cfg.drainMode = .snapshot → s.pb.need ≠ 0)

/-! ## Runs -/

/-- Operations one after the other, stopping at the first that is refused (R50, R68). -/
def execAll : List Instr → State → Result
  | [], s => .next s
  | i :: rest, s => andThen (exec i s) (execAll rest)

/-- The blocks an operation takes out of Channel `c`: `POP c`, and `RPOP` or `RENDER` on `PB_CH` (R120, R133, R145). -/
def poppedFrom (c : Nat) (i : Instr) (s t : State) : List Block :=
  match i with
  | .pop d => if d = c then (s.blocks c).take 1 else []
  | .rpop => if s.cfg.pbCh = some c then (s.blocks c).take 1 else []
  | .render _ => if s.cfg.pbCh = some c then (s.blocks c).take t.pb.drained else []
  | _ => []

/-- The block an operation offers to Channel `c`: `PUSH` at that Channel (R115). -/
def offeredTo (c : Nat) (i : Instr) (s : State) : List Block :=
  match i with
  | .push => if s.pr.idx = c then [s.pr.block] else []
  | _ => []

/-- A run seen from Channel `c`: the state it ends in, the blocks popped and the blocks offered, each in order (R51). -/
def channelRun (c : Nat) : List Instr → State → Option (State × List Block × List Block)
  | [], s => some (s, [], [])
  | i :: rest, s =>
    match exec i s with
    | .next t =>
      match channelRun c rest t with
      | some (u, popped, offered) => some (u, poppedFrom c i s t ++ popped, offeredTo c i s ++ offered)
      | none => none
    | .fault _ => none
    | .refused _ => none

/-! ## The end of a run (R156) -/

/-- No agent inside TFS has anything left to do by itself (R156). -/
abbrev Quiescent (s : State) : Prop :=
  (s.fs.state = .stopped ∨ s.fs.state = .halted ∨ s.fs.state = .fatal) ∧ s.pr.state = .idle ∧ s.pb.state = .idle ∧
    (s.iq = [] ∨ s.stop = true)

/-- The external agents do nothing more: what is left of the schedule holds internal operations only, and after it the free
schedule presents nothing of theirs (R156; log entry 30). -/
abbrev OutsideDone (s : State) : Prop := (∀ u ∈ s.env.script, u.isInternal = true) ∧ s.env.outsideDone = true

/-- The run that has reached this state is over (R156). In `FATAL`, where only a `RESET 0` leads, it is over at once, whatever
the outside still does (R211); that a later `RESET` then begins a new run and does not continue this one is the model's DESIGN
CHOICE (log entry 30). -/
abbrev RunOver (s : State) : Prop := Quiescent s ∧ (OutsideDone s ∨ s.fs.state = .fatal)

/-- A quiescent state that is final and good (R156). -/
abbrev FinalGood (s : State) : Prop := Quiescent s ∧ s.fs.state ≠ .fatal

/-! ## The invariant (R37) -/

/-- A block has exactly `NS` samples, each in the int24 range (R20). -/
abbrev BlockOk (c : Config) (b : Block) : Prop := b.length = c.ns ∧ ∀ x ∈ b, inInt24 x

/-- The Frame Synchronizer's registers are within R12 to R14 and R37. -/
abbrev FsOk (s : State) : Prop :=
  s.fs.wcnt ≤ 2 ∧ (s.fs.state ≠ .seeking → s.fs.wcnt = 0) ∧ (s.fs.state ≠ .readingPayload → s.fs.cnt = 0) ∧
    s.fs.cnt < s.cfg.payloadSize ∧ s.fs.buf.length = s.cfg.payloadSize

/-- The ingress queue is bounded and holds whole Frames (R16, R17, R37). -/
abbrev IngressOk (s : State) : Prop :=
  s.iq.length ≤ s.cfg.ingressDepth ∧ (∀ f ∈ s.iq, f.length = s.cfg.payloadSize) ∧ s.iqDropCnt < 2 ^ s.cfg.cntW

/-- The Processing registers are within R19 and R37. -/
abbrev PrOk (s : State) : Prop :=
  (s.pr.state = .pushing → s.pr.idx < s.cfg.nch ∧ BlockOk s.cfg s.pr.block) ∧ (s.pr.state = .idle → s.pr.idx = 0)

/-- There are `NCH` Channels, each bounded by its capacity and holding whole corrected blocks (R21, R22, R37). -/
abbrev ChannelsOk (s : State) : Prop :=
  s.ch.length = s.cfg.nch ∧ ∀ i < s.cfg.nch,
    (s.blocks i).length ≤ s.cfg.cap i ∧ (∀ b ∈ s.blocks i, BlockOk s.cfg b) ∧ s.dropCnt i < 2 ^ s.cfg.cntW

/-- `ACC_CAP` bounds the accumulator (R37). -/
abbrev AccWithin (s : State) : Prop :=
  match s.cfg.accCap with
  | none => True
  | some a => s.pb.acc.length ≤ a

/-- What a drain still has to pop is in the Channel (R24). -/
abbrev NeedWithin (s : State) : Prop :=
  match s.cfg.pbCh with
  | none => True
  | some c => s.pb.state = .draining → s.pb.need ≤ (s.blocks c).length

/-- The Playback registers are within R23 to R26 and R37. -/
abbrev PbOk (s : State) : Prop :=
  (∀ x ∈ s.pb.acc, inInt24 x) ∧ (∀ x ∈ s.pb.out, inInt24 x) ∧ AccWithin s ∧ NeedWithin s ∧
    s.pb.req < 2 ^ s.cfg.nw ∧ s.pb.underrunCnt < 2 ^ s.cfg.cntW ∧ (s.pb.state = .idle → s.pb.out.length = s.pb.req)

/-- The invariant of R37, with the bounds of the state table R10 it stands beside. -/
abbrev Inv (s : State) : Prop :=
  s.cfg.legal = true ∧ FsOk s ∧ IngressOk s ∧ PrOk s ∧ ChannelsOk s ∧ PbOk s

/-- An underrun record (R143). -/
def Event.isUnderrun : Event → Bool
  | .linkTimeout => false
  | .frameCorrupt _ _ => false
  | .channelFull _ => false
  | .playbackUnderrun _ _ => true
  | .alignmentAmbiguous => false
  | .ingressFull => false

/-- Every counter shows, modulo `2^CNT_W`, how many of its events the log holds (R18, R22, R26, R180). -/
abbrev CountersMatchLog (s : State) : Prop :=
  s.ch.length = s.cfg.nch ∧
    s.iqDropCnt = s.diag.count .ingressFull % 2 ^ s.cfg.cntW ∧
    s.pb.underrunCnt = s.diag.countP Event.isUnderrun % 2 ^ s.cfg.cntW ∧
    ∀ i < s.cfg.nch, s.dropCnt i = s.diag.count (.channelFull i) % 2 ^ s.cfg.cntW

end Sys2Proof.Machine
end

