-- ==== Sys2Proof/Certificates/Slice0/Obligations.lean ====
section
/-! DEFINITION. The statements for the provers. Where the text of a rule carries the mark "[decision: ...]" the spec itself
made the choice; the docstring names it. Every statement quantifies over every configuration and every state. -/

open Sys2Proof Sys2Proof.Machine

/-! ## Encoding -/

/-- Every well-formed instruction that can stand in a link context is decoded from its own encoding, with every operand at
every value its format admits (R61 to R69; the stimulus word is the spec's decision D23). With an empty window the older
byte of a `SKIP` means nothing (R12); that the decoder shows the register's byte there is the model's choice (log entry 14).
The last clause is the model's choice too (log entry 29): operands of any size, also those a stimulus word cannot hold, come
as transactions at the ports `render_req` and `pop_req[c]` of R220, where `render_req` carries `NW` bits and the model puts no
bound, and as the input `renderCall`, which is the model's own, for R220 has no port for `RENDER`. -/
def Obligations.DecodeOfEncodeIsIdentity : Prop :=
  (∀ (x : LinkCtx) (i : Instr), i.WellFormed = true → i.fits x = true →
    (∀ o b, i = .skip o b → x.wcnt = 0 → o = x.win.extractLsb' 0 8) → decode x (encode x i) = .ok i) ∧
  (∀ (x : LinkCtx) (o b : Byte), (Instr.skip o b).fits x = true → x.wcnt = 0 →
    decode x (encode x (.skip o b)) = .ok (.skip (x.win.extractLsb' 0 8) b)) ∧
  ∀ (x : LinkCtx) (n : Nat), decode x (.renderReq n) = .ok (.rbegin n) ∧ decode x (.renderCall n) = .ok (.render n) ∧
    decode x (.popReq n) = .ok (.pop n)

/-- Each stimulus word has at most one meaning: the word a decoded instruction is encoded to is the word it was decoded from
(R68, R69; decision D23). -/
def Obligations.StimulusWordHasOneMeaning : Prop :=
  ∀ (x : LinkCtx) (w : BitVec 32) (i : Instr), decodeStim w = .ok i → encode x i = .stim w ∧ i.WellFormed = true

/-- The words that are no reserved words are exactly those of R66 and R68 with zero must-be-zero bits (R71; decision
D23). -/
def Obligations.ReservedWordsAreExactlyTheRest : Prop :=
  ∀ w : BitVec 32, (∃ i, decodeStim w = .ok i) ↔
    (w.extractLsb' 8 24 = 0x010000 ∨ w = 0x02000000 ∨ w = 0x10000000 ∨ w = 0x11000000 ∨
      (w.extractLsb' 24 8 = 0x20 ∧ w.extractLsb' 0 16 = 0) ∨ w.extractLsb' 16 16 = 0x2100 ∨
      w.extractLsb' 16 16 = 0x2200 ∨ w = 0x23000000 ∨ w = 0x24000000 ∨ w = 0x30000000 ∨ w = 0x31000000 ∨
      w.extractLsb' 1 31 = 0x1F800000)

/-- Words written out in the spec decode to the operations they stand for (R73, vectors of 95_test_vectors.md). -/
def Obligations.ScriptWordsDecode : Prop :=
  decodeStim 0x010000AA = .ok (.rxb 0xAA) ∧ decodeStim 0x02000000 = .ok .tmo ∧ decodeStim 0x10000000 = .ok .fetch ∧
    decodeStim 0x20010000 = .ok (.pop 1) ∧ decodeStim 0x21000100 = .ok (.render 256) ∧
    decodeStim 0x22000004 = .ok (.rbegin 4) ∧ decodeStim 0x31000000 = .ok .restart ∧
    decodeStim 0x3F000001 = .ok (.reset true)

/-! ## The step -/

/-- A step takes the head of the schedule and runs the instruction it decodes to, from the state with the rest of the
schedule; nothing else surrounds it. A configuration at the head goes to the configuration inputs (R214 step 2, R220), where
one that differs from what was presented counts as a change (log entry 7). R61, R63 and R65 only lay out the formats of a
Frame, a sample and a gain; that an input which is not of its format is refused is the model's choice (log entry 31, for the
gain also 10). The schedule in State is the model's DESIGN CHOICE, log entry 2. -/
def Obligations.StepRunsDecodedInstruction : Prop :=
  ∀ (s : State) (u : Input) (rest : List Input),
    s.env.script = u :: rest → (∀ v ∈ u :: rest, v.admissible = true) →
      (∀ i, decode s.linkCtx u = .ok i → step s = exec i { s with env := { s.env with script := rest } }) ∧
      (∀ c, u = .config c → step s = .next { s with env := { s.env with
        script := rest, cfgIn := c, cfgMoved := s.env.cfgMoved || decide (c ≠ s.env.cfgIn) } }) ∧
      (∀ r, decode s.linkCtx u = .reject r → (∀ c, u ≠ .config c) → step s = .refused .malformedInput)

/-- With nothing scheduled the free choice is run where it is enabled, no agent moves where it is not, and the step stops
only where the configuration gives TFS no meaning, which a legal configuration with stable inputs rules out (the free
schedule is the model's DESIGN CHOICE, log entry 3; R50, R196; the stop is R6 and R230, log entry 7). Where the external
agents do nothing more, only an internal operation is chosen (R156; log entry 30). -/
def Obligations.FreeStepRunsWhatIsEnabled : Prop :=
  ∀ s : State, s.env.script = [] →
    (s.env.outsideDone = true → (Config.freeInput s.env.tick).isInternal = false → step s = .next s.ticked) ∧
    (s.env.outsideDone = false ∨ (Config.freeInput s.env.tick).isInternal = true →
      (∀ t, runInput (Config.freeInput s.env.tick) s.ticked = .next t → step s = .next t) ∧
      (∀ q, runInput (Config.freeInput s.env.tick) s.ticked = .refused q →
        ((q = .illegalConfig ∨ q = .configChanged) → step s = .refused q) ∧
        (q ≠ .illegalConfig → q ≠ .configChanged → step s = .next s.ticked))) ∧
    (s.cfg.legal = true → InputsStable s → ∃ t, step s = .next t)

/-- A script that holds a reserved word anywhere is refused as a whole, at its first step (R71; decision D23). -/
def Obligations.ReservedWordRefusesWholeScript : Prop :=
  ∀ (s : State) (w : BitVec 32) (q : Reject),
    Input.stim w ∈ s.env.script → decodeStim w = .reject q → step s = .refused .reservedInScript

/-! ## Frame Synchronizer -/

/-- How a received byte is decoded: the whole table of R67, by the sequencer state and the window after the shift, with the
effect the table gives each class. The Frame a last byte emits goes to the ingress queue where there is room, and where there
is none is dropped and reported (R113, the spec's decision D5). -/
def Obligations.ReceivedByteIsDecodedByState : Prop :=
  ∀ (s : State) (b : Byte),
    (Running s → s.fs.state = .seeking →
      (min (s.fs.wcnt + 1) 2 = 2 ∧ s.fs.win.extractLsb' 0 8 ++ b = s.cfg.m0 ++ s.cfg.m1 →
        exec (.rxb b) s = exec (.sof (s.fs.win.extractLsb' 0 8) b) s ∧
          ∃ t, exec (.rxb b) s = .next t ∧ t.fs.state = .readingPayload) ∧
      (¬ (min (s.fs.wcnt + 1) 2 = 2 ∧ s.fs.win.extractLsb' 0 8 ++ b = s.cfg.m0 ++ s.cfg.m1) →
        exec (.rxb b) s = exec (.skip (s.fs.win.extractLsb' 0 8) b) s ∧
          ∃ t, exec (.rxb b) s = .next t ∧ t.fs.state = .seeking ∧ t.fs.win = s.fs.win.extractLsb' 0 8 ++ b)) ∧
    (Running s → s.fs.state = .readingPayload →
      (s.fs.cnt + 1 < s.cfg.payloadSize →
        exec (.rxb b) s = exec (.pay b) s ∧
          ∃ t, exec (.rxb b) s = .next t ∧ t.fs.state = .readingPayload ∧ t.fs.buf = s.fs.buf.set s.fs.cnt b) ∧
      (s.fs.cnt + 1 = s.cfg.payloadSize →
        exec (.rxb b) s = exec (.payLast b) s ∧
          ∃ t, exec (.rxb b) s = .next t ∧ (t.fs.state = .seeking ∨ t.fs.state = .stopped) ∧
            t.fs.buf = s.fs.buf.set s.fs.cnt b ∧
            (s.iq.length < s.cfg.ingressDepth →
              t.iq = s.iq ++ [s.fs.buf.take (s.cfg.payloadSize - 1) ++ [b]] ∧ t.diag = s.diag) ∧
            (s.cfg.ingressDepth ≤ s.iq.length → t.iq = s.iq ∧ t.diag = s.diag ++ [.ingressFull]))) ∧
    (s.fs.state = .halted ∨ s.fs.state = .stopped ∨ s.fs.state = .fatal → ∃ q, exec (.rxb b) s = .refused q)

/-- `SOF`: the byte that completes the marker starts a payload read with an empty window (R83; emptying the window is the
spec's decision D2; that `fs.win` keeps its bits, which mean nothing then, is log entry 14). `RXB` of that byte does the
same. -/
def Obligations.MarkerStartsPayloadRead : Prop :=
  ∀ (s : State) (b : Byte), Running s → s.fs.state = .seeking → 1 ≤ s.fs.wcnt →
    s.fs.win.extractLsb' 0 8 ++ b = s.cfg.m0 ++ s.cfg.m1 →
      exec (.rxb b) s = .next { s with fs := { s.fs with state := .readingPayload, cnt := 0, wcnt := 0 } } ∧
      exec (.sof (s.fs.win.extractLsb' 0 8) b) s =
        .next { s with fs := { s.fs with state := .readingPayload, cnt := 0, wcnt := 0 } }

/-- `SKIP`: a byte of the search that completes no marker slides the window and changes nothing else (R84). `RXB` of that
byte does the same. The row names the older byte of the window; that it applies with any older byte where the window was
empty is the model's choice (R12; log entry 14). -/
def Obligations.SearchByteSlidesWindow : Prop :=
  ∀ (s : State) (b : Byte), Running s → s.fs.state = .seeking →
    ¬ (min (s.fs.wcnt + 1) 2 = 2 ∧ s.fs.win.extractLsb' 0 8 ++ b = s.cfg.m0 ++ s.cfg.m1) →
      exec (.rxb b) s =
        .next { s with fs := { s.fs with win := s.fs.win.extractLsb' 0 8 ++ b, wcnt := min (s.fs.wcnt + 1) 2 } } ∧
      ∀ older : Byte, (s.fs.wcnt = 0 ∨ older = s.fs.win.extractLsb' 0 8) → exec (.skip older b) s =
        .next { s with fs := { s.fs with win := s.fs.win.extractLsb' 0 8 ++ b, wcnt := min (s.fs.wcnt + 1) 2 } }

/-- A window with fewer than two valid bytes matches no marker, whatever it holds: after an empty window one byte leaves the
Reader searching, for every marker (R82; decision D2). -/
def Obligations.EmptyWindowMatchesNothing : Prop :=
  ∀ (s : State) (b : Byte), Running s → s.fs.state = .seeking → s.fs.wcnt = 0 →
    ∃ t, exec (.rxb b) s = .next t ∧ t.fs.state = .seeking ∧ t.fs.wcnt = 1 ∧ t.fs.win.extractLsb' 0 8 = b

/-- `PAY`: a payload byte that is not the last is stored at index `fs.cnt` (R85; byte-serial reads are the spec's decision
D3). `RXB` of that byte does the same. -/
def Obligations.PayloadByteIsStored : Prop :=
  ∀ (s : State) (b : Byte), Running s → s.fs.state = .readingPayload → s.fs.cnt + 1 < s.cfg.payloadSize →
    exec (.rxb b) s = .next { s with fs := { s.fs with buf := s.fs.buf.set s.fs.cnt b, cnt := s.fs.cnt + 1 } } ∧
    exec (.pay b) s = .next { s with fs := { s.fs with buf := s.fs.buf.set s.fs.cnt b, cnt := s.fs.cnt + 1 } }

/-- `PAYLAST` with room in the ingress queue: the Frame of exactly the payload bytes in arrival order goes to the tail of
`iq`, and the Reader seeks again or stops (R86, R113; decisions D5, D7; the byte stored in the buffer is log entry 23, the
kept bits of `fs.win` log entry 14). `RXB` of that byte does the same. -/
def Obligations.LastPayloadByteEmitsFrame : Prop :=
  ∀ (s : State) (b : Byte), Running s → s.fs.state = .readingPayload → s.fs.cnt + 1 = s.cfg.payloadSize →
    s.iq.length < s.cfg.ingressDepth →
      exec (.rxb b) s = .next { s with
        iq := s.iq ++ [s.fs.buf.take (s.cfg.payloadSize - 1) ++ [b]]
        fs := { s.fs with buf := s.fs.buf.set s.fs.cnt b, cnt := 0, wcnt := 0,
                          state := if s.stop then .stopped else .seeking } } ∧
      exec (.payLast b) s = exec (.rxb b) s

/-- `PAYLAST` with the ingress queue full: the arriving Frame is dropped, counted modulo `2^CNT_W` and reported; older Frames
stay (R86, R113; decisions D5, D7, D10; the byte stored in the buffer is log entry 23, the kept bits of `fs.win` log
entry 14). `RXB` of that byte does the same. -/
def Obligations.FullIngressQueueDropsFrame : Prop :=
  ∀ (s : State) (b : Byte), Running s → s.fs.state = .readingPayload → s.fs.cnt + 1 = s.cfg.payloadSize →
    s.cfg.ingressDepth ≤ s.iq.length →
      exec (.payLast b) s = .next { s with
        iqDropCnt := (s.iqDropCnt + 1) % 2 ^ s.cfg.cntW
        diag := s.diag ++ [.ingressFull]
        fs := { s.fs with buf := s.fs.buf.set s.fs.cnt b, cnt := 0, wcnt := 0,
                          state := if s.stop then .stopped else .seeking } } ∧
      exec (.rxb b) s = exec (.payLast b) s

/-- `TMO` while searching: `LinkTimeout`, the half-filled window discarded, the Reader halted, or stopped when the shutdown
flag is set (R87; decision D1). `TMO` inside a payload: `FrameCorrupt` carries the partial bytes and their number, nothing
goes to the ingress queue, and the Reader seeks again or stops (R88; decision D6). That `fs.win` keeps its bits is log entry
14. -/
def Obligations.TimeoutReportsAndEndsTheIteration : Prop :=
  ∀ s : State, Running s →
    (s.fs.state = .seeking → exec .tmo s = .next { s with
      diag := s.diag ++ [.linkTimeout]
      fs := { s.fs with wcnt := 0, state := if s.stop then .stopped else .halted } }) ∧
    (s.fs.state = .readingPayload → exec .tmo s = .next { s with
      diag := s.diag ++ [.frameCorrupt (s.fs.buf.take s.fs.cnt) s.fs.cnt]
      fs := { s.fs with cnt := 0, wcnt := 0, state := if s.stop then .stopped else .seeking } })

/-- Where the link has nothing to answer `RXB` and `TMO` are refused (R89; decision D1), and so is a row that R61 or R67 does
not put there (log entry 9); a payload already complete, which no state of the invariant has, takes no byte (log entry
18). -/
def Obligations.LinkRowsRefusedWhereTheyDoNotApply : Prop :=
  ∀ (s : State) (b : Byte), Running s →
    (s.fs.state = .halted ∨ s.fs.state = .stopped →
      exec (.rxb b) s = .refused .readerNotReading ∧ exec .tmo s = .refused .readerNotReading) ∧
    (s.fs.state = .readingPayload → s.cfg.payloadSize ≤ s.fs.cnt → exec (.rxb b) s = .refused .payloadComplete) ∧
    ∀ i : Instr, i.fits s.linkCtx = false → (∀ g, i ≠ .gainq g) → exec i s = .refused .rowDoesNotApply

/-- The wire formats are the bytes they consist of: a container its four bytes, least significant first, a Frame the marker
and its payload (R62, R74; that a format row runs so is the model's reading, log entry 10). -/
def Obligations.WireFormatsAreTheirBytes : Prop :=
  ∀ s : State,
    (∀ (g : Byte) (v : BitVec 24), exec (.cont32 g v) s =
      execAll [.rxb (v.extractLsb' 0 8), .rxb (v.extractLsb' 8 8), .rxb (v.extractLsb' 16 8), .rxb g] s) ∧
    (∀ payload : List Byte, payload.length = s.cfg.payloadSize →
      exec (.frame payload) s = execAll (opsFrame s.cfg payload) s)

/-- `CONT32` in the middle of a payload: the container's four bytes are stored, least significant first (R43, R62, R85; log
entry 10). -/
def Obligations.ContainerIsStoredLittleEndian : Prop :=
  ∀ (s : State) (g : Byte) (v : BitVec 24), Running s → s.fs.state = .readingPayload →
    s.fs.cnt + 4 < s.cfg.payloadSize →
      exec (.cont32 g v) s = .next { s with fs := { s.fs with
        buf := (((s.fs.buf.set s.fs.cnt (v.extractLsb' 0 8)).set (s.fs.cnt + 1) (v.extractLsb' 8 8)).set
          (s.fs.cnt + 2) (v.extractLsb' 16 8)).set (s.fs.cnt + 3) g
        cnt := s.fs.cnt + 4 } }

/-- `FRAME` from an empty window: the whole payload reaches the tail of the ingress queue, or is dropped, counted and
reported when the queue is full; nothing outside the Reader changes (R60, R61, R86, R113 for the bytes; decisions D2, D3, D5,
D7; that the format row `FRAME` runs as one step is the model's reading, log entry 10). -/
def Obligations.FrameOnWireReachesIngressQueue : Prop :=
  ∀ (s : State) (payload : List Byte), Running s → s.fs.state = .seeking → s.fs.wcnt = 0 →
    s.fs.buf.length = s.cfg.payloadSize → payload.length = s.cfg.payloadSize →
      ∃ t, exec (.frame payload) s = .next t ∧
        t.fs.state = (if s.stop then .stopped else .seeking) ∧ t.fs.cnt = 0 ∧ t.fs.wcnt = 0 ∧
        (s.iq.length < s.cfg.ingressDepth → t = { s with iq := s.iq ++ [payload], fs := t.fs }) ∧
        (s.cfg.ingressDepth ≤ s.iq.length → t = { s with
          iqDropCnt := (s.iqDropCnt + 1) % 2 ^ s.cfg.cntW, diag := s.diag ++ [.ingressFull], fs := t.fs })

/-- The document's frame property: a payload preceded by the marker, then `FETCH`, leaves exactly `NS` corrected samples in
the int24 range (R93; stated for an empty ingress queue and at least one Channel, without which `FETCH` takes another Frame
or discards the block, R114). `FRAME` is the script of R74, the marker's and the payload's bytes. -/
def Obligations.FrameThenFetchYieldsCorrectedBlock : Prop :=
  ∀ (s : State) (payload : List Byte), Running s → s.fs.state = .seeking → s.fs.wcnt = 0 →
    s.fs.buf.length = s.cfg.payloadSize → payload.length = s.cfg.payloadSize →
    s.iq = [] → s.pr.state = .idle → s.stop = false → 0 < s.cfg.nch →
      ∃ t, execAll (opsFrame s.cfg payload ++ [.fetch]) s = .next t ∧ t.iq = [] ∧ t.pr.state = .pushing ∧ t.pr.idx = 0 ∧
        t.pr.block = correctBlock (decodePayload payload) ∧ t.pr.block.length = s.cfg.ns ∧
        ∀ x ∈ t.pr.block, inInt24 x

/-! ## Sample Decoder -/

/-- `decode` groups the payload into little-endian 32-bit containers, one per 4 bytes (R100, R43). -/
def Obligations.DecodeGroupsLittleEndianContainers : Prop :=
  ∀ f : Frame, f.length % 4 = 0 →
    (decodePayload f).length = f.length / 4 ∧
    ∀ i < f.length / 4, (decodePayload f)[i]? = some (BitVec.ofNat 32
      ((f.getD (4 * i) 0).toNat + 2 ^ 8 * (f.getD (4 * i + 1) 0).toNat + 2 ^ 16 * (f.getD (4 * i + 2) 0).toNat +
        2 ^ 24 * (f.getD (4 * i + 3) 0).toNat))

/-- `correct` applies, per element, a 32-bit left shift and an arithmetic right shift by 8, which is the sign extension of
the low 24 bits (R101). -/
def Obligations.CorrectIsSignExtensionFromBit23 : Prop :=
  (∀ raw : Block, (correctBlock raw).length = raw.length ∧
    ∀ i : Nat, (correctBlock raw)[i]? = (raw[i]?).map correctSample) ∧
  ∀ x : Sample, (correctSample x).toInt = (BitVec.ofNat 32 (x.toNat * 2 ^ 8)).toInt / 2 ^ 8 ∧
    correctSample x = (x.extractLsb' 0 24).signExtend 32

/-- A corrected sample is in the int24 range, depends on the low 24 bits alone, and correcting again changes nothing (R102,
which the spec derives). -/
def Obligations.CorrectedSampleIsInt24AndStable : Prop :=
  ∀ x y : Sample, inInt24 (correctSample x) ∧ correctSample (correctSample x) = correctSample x ∧
    (x.extractLsb' 0 24 = y.extractLsb' 0 24 → correctSample x = correctSample y)

/-- The two functions composed, straight from the four wire bytes; the garbage byte does not occur (R103, which the spec
derives). -/
def Obligations.SampleFromWireBytes : Prop :=
  ∀ b0 b1 b2 b3 : Byte, (correctBlock (decodePayload [b0, b1, b2, b3])).map BitVec.toInt =
    [(b0.toNat : Int) + 256 * b1.toNat + 65536 * (b2.toNat % 128 : Nat) - 8388608 * (b2.toNat / 128 : Nat)]

/-- Two payloads that differ only in the garbage byte of their containers carry the same samples (R102, R105). -/
def Obligations.GarbageBytesDoNotMatter : Prop :=
  ∀ f g : Frame, f.length = g.length → (∀ i : Nat, i % 4 ≠ 3 → f[i]? = g[i]?) →
    correctBlock (decodePayload f) = correctBlock (decodePayload g)

/-! ## Queues and fan-out -/

/-- `FETCH` pops the oldest Frame, decodes and corrects it and starts the fan-out; with no Channel the block is discarded
(R114; decisions D7, D8, D9). -/
def Obligations.FetchStartsFanout : Prop :=
  ∀ (s : State) (f : Frame) (rest : List Frame), Running s → s.pr.state = .idle → s.stop = false → s.iq = f :: rest →
    (s.cfg.nch = 0 → exec .fetch s = .next { s with iq := rest }) ∧
    (s.cfg.nch ≠ 0 → exec .fetch s = .next { s with
      iq := rest, pr := { state := .pushing, block := correctBlock (decodePayload f), idx := 0 } })

/-- `FETCH` is refused where it is not enabled: a block in hand, no Frame, or the shutdown flag set; Frames stay in `iq`
(R114, R198; decision D7). `PUSH` is refused without a block in hand (R115), and without a Channel left, which no state of the
invariant has (log entry 18). -/
def Obligations.FanoutStepsRefusedWhenNotEnabled : Prop :=
  ∀ s : State, Running s →
    (s.pr.state = .pushing ∨ s.iq = [] ∨ s.stop = true → exec .fetch s = .refused .fetchNotEnabled) ∧
    (s.pr.state = .idle ∨ s.cfg.nch ≤ s.pr.idx → exec .push s = .refused .pushNotEnabled)

/-- `PUSH` into a Channel with room appends the block to that Channel, changes no other, and goes on to the next Channel
(R115; one step per Channel in ascending order is the spec's decision D9). -/
def Obligations.PushAppendsBlock : Prop :=
  ∀ (s : State) (k : Chan), Running s → s.pr.state = .pushing → s.pr.idx < s.cfg.nch → s.ch[s.pr.idx]? = some k →
    k.blocks.length < s.cfg.cap s.pr.idx →
      exec .push s = .next { s with
        ch := s.ch.set s.pr.idx { k with blocks := k.blocks ++ [s.pr.block] }
        pr := if s.pr.idx + 1 < s.cfg.nch then { s.pr with idx := s.pr.idx + 1 }
              else { s.pr with idx := 0, state := .idle } }

/-- `PUSH` at a full Channel drops the block for that Channel only, counts it there and reports it; no Channel's content
changes and the fan-out goes on (R116). -/
def Obligations.PushAtFullChannelDropsAndCounts : Prop :=
  ∀ (s : State) (k : Chan), Running s → s.pr.state = .pushing → s.pr.idx < s.cfg.nch → s.ch[s.pr.idx]? = some k →
    s.cfg.cap s.pr.idx ≤ k.blocks.length →
      exec .push s = .next { s with
        ch := s.ch.set s.pr.idx { k with dropCnt := (k.dropCnt + 1) % 2 ^ s.cfg.cntW }
        diag := s.diag ++ [.channelFull s.pr.idx]
        pr := if s.pr.idx + 1 < s.cfg.nch then { s.pr with idx := s.pr.idx + 1 }
              else { s.pr with idx := 0, state := .idle } }

/-- A fan-out runs through every Channel and ends: after `NCH` `PUSH` steps each Channel either holds the block at its tail or
has counted one drop, also when the shutdown flag is set (R115 to R117; decisions D7, D9). -/
def Obligations.FanoutOffersBlockToEveryChannel : Prop :=
  ∀ s : State, Running s → s.pr.state = .pushing → s.pr.idx = 0 → 0 < s.cfg.nch → s.ch.length = s.cfg.nch →
    ∃ t, execAll (List.replicate s.cfg.nch .push) s = .next t ∧
      t = { s with ch := t.ch, pr := { s.pr with idx := 0, state := .idle }, diag := t.diag } ∧
      t.ch.length = s.cfg.nch ∧
      ∀ c < s.cfg.nch,
        ((s.blocks c).length < s.cfg.cap c →
          t.blocks c = s.blocks c ++ [s.pr.block] ∧ t.dropCnt c = s.dropCnt c) ∧
        (s.cfg.cap c ≤ (s.blocks c).length →
          t.blocks c = s.blocks c ∧ t.dropCnt c = (s.dropCnt c + 1) % 2 ^ s.cfg.cntW)

/-- `POP c` gives the consumer the oldest block of its Channel, or empty, and changes no other state of TFS (R111, R120;
decision D28; the answer is held in the model's own field, log entry 11). -/
def Obligations.PopTakesOldestBlock : Prop :=
  ∀ (s : State) (c : Nat) (k : Chan), Running s → c < s.cfg.nch → s.cfg.pbCh ≠ some c → s.ch[c]? = some k →
    exec (.pop c) s = .next { s with
      ch := s.ch.set c { k with blocks := k.blocks.tail }
      popRsp := some { channel := c, block := k.blocks.head? } }

/-- `POP` of the playback Channel, or of a Channel that does not exist, is refused (R120; decision D28). -/
def Obligations.PopRefusedOutsideOwnChannel : Prop :=
  ∀ (s : State) (c : Nat), Running s →
    (s.cfg.nch ≤ c → exec (.pop c) s = .refused .noSuchChannel) ∧
    (s.cfg.pbCh = some c → c < s.cfg.nch → exec (.pop c) s = .refused .playbackOwnsChannel)

/-- Over every run without a reset, what is popped from a Channel and what remains in it is, in order, a part of what stood in
it and what was offered to it: blocks are never reordered, duplicated or invented; and every block missing is one that
`drop_cnt[c]` counted (R51). -/
def Obligations.ChannelDeliversInOrder : Prop :=
  ∀ (c : Nat) (is : List Instr) (s t : State) (popped offered : List Block),
    (∀ l, Instr.reset l ∉ is) → channelRun c is s = some (t, popped, offered) →
      List.Sublist (popped ++ t.blocks c) (s.blocks c ++ offered) ∧
      (c < s.ch.length → ∃ lost : Nat,
        (popped ++ t.blocks c).length + lost = (s.blocks c ++ offered).length ∧
        t.dropCnt c % 2 ^ s.cfg.cntW = (s.dropCnt c + lost) % 2 ^ s.cfg.cntW)

/-! ## Playback -/

/-- `RBEGIN n` latches the request and the occupancy of the playback Channel (R132; decisions D11, D18). A request that does
not fit `NW` bits latches some number that does (log entry 13). -/
def Obligations.RbeginLatchesRequest : Prop :=
  ∀ (s : State) (n c : Nat), Running s → s.cfg.pbCh = some c → s.pb.state = .idle →
    ∃ m, m < 2 ^ s.cfg.nw ∧ (n < 2 ^ s.cfg.nw → m = n) ∧ exec (.rbegin n) s = .next { s with
      pb := { s.pb with req := m, need := (s.blocks c).length, drained := 0, state := .draining } }

/-- `RPOP` moves the oldest block of the playback Channel to the tail of the accumulator, whole and in order (R133; decisions
D11, D12). -/
def Obligations.RpopMovesBlockToAccumulator : Prop :=
  ∀ (s : State) (c : Nat) (k : Chan) (b : Block) (rest : List Block), Running s → s.cfg.pbCh = some c →
    RpopReady c s → s.ch[c]? = some k → k.blocks = b :: rest →
      exec .rpop s = .next { s with
        ch := s.ch.set c { k with blocks := rest }
        pb := { s.pb with acc := s.pb.acc ++ b, need := s.pb.need - 1, drained := s.pb.drained + 1 } }

/-- `REND` with enough samples: exactly the requested number from the front of the accumulator, the remainder retained, and
no underrun (R136). -/
def Obligations.RendOutputsFromFront : Prop :=
  ∀ (s : State) (c : Nat), Running s → s.cfg.pbCh = some c → RendReady c s → s.pb.req ≤ s.pb.acc.length →
    ∃ t, exec .rend s = .next t ∧ t.pb.out = (s.pb.acc.take s.pb.req).map (gainclip s.cfg) ∧
      t.pb.out.length = s.pb.req ∧ t.pb.acc = s.pb.acc.drop s.pb.req ∧ t.diag = s.diag ∧
      t.pb.underrunCnt = s.pb.underrunCnt

/-- `REND` on an underrun: every sample held is output first, then silence up to the request, the accumulator is cleared, and
one diagnostic event and one count are made; no error (R137). -/
def Obligations.RendUnderrunFillsWithSilence : Prop :=
  ∀ (s : State) (c : Nat), Running s → s.cfg.pbCh = some c → RendReady c s → s.pb.acc.length < s.pb.req →
    ∃ t, exec .rend s = .next t ∧
      t.pb.out = s.pb.acc.map (gainclip s.cfg) ++ List.replicate (s.pb.req - s.pb.acc.length) 0 ∧
      t.pb.out.length = s.pb.req ∧ t.pb.acc = [] ∧
      t.diag = s.diag ++ [.playbackUnderrun s.pb.acc.length s.pb.req] ∧
      t.pb.underrunCnt = (s.pb.underrunCnt + 1) % 2 ^ s.cfg.cntW

/-- All that `REND` leaves beside the output and the accumulator: the call is over, `starved` is set exactly when the call
underran and its drain popped no block, and nothing outside the Playback Engine changes but the log (R135, R144; decisions
D10, D17). -/
def Obligations.RendEndsCallAndSetsStarved : Prop :=
  ∀ (s : State) (c : Nat), Running s → s.cfg.pbCh = some c → RendReady c s →
    ∃ t, exec .rend s = .next t ∧ t.pb.starved = (decide (s.pb.acc.length < s.pb.req) && decide (s.pb.drained = 0)) ∧
      t = { s with
        pb := { s.pb with out := t.pb.out, acc := t.pb.acc, state := .idle, underrunCnt := t.pb.underrunCnt,
                          starved := t.pb.starved }
        diag := t.diag }

/-- `REND` and `RPOP` are refused exactly where R133 and R134 do not enable them (decisions D11, D12, D23;
`DRAIN_MODE` on the steps is log entry 15). -/
def Obligations.DrainStepsRefusedWhenNotEnabled : Prop :=
  ∀ (s : State) (c : Nat), Running s → s.cfg.pbCh = some c →
    (exec .rend s = .refused .rendNotEnabled ↔ ¬ RendReady c s) ∧
    (exec .rpop s = .refused .rpopNotEnabled ↔ ¬ RpopReady c s)

/-- Calls do not overlap: `RBEGIN` and `RENDER` are refused while a call is in progress (R132, R225; decision D18), and a
machine without a Playback Engine refuses all playback operations (log entry 12). -/
def Obligations.PlaybackCallsRefusedWhenNotEnabled : Prop :=
  ∀ (s : State) (n : Nat), Running s →
    (∀ c, s.cfg.pbCh = some c → s.pb.state = .draining →
      exec (.rbegin n) s = .refused .callsOverlap ∧ exec (.render n) s = .refused .callsOverlap) ∧
    (s.cfg.pbCh = none → ∀ i ∈ [Instr.rbegin n, .render n, .rpop, .rend], exec i s = .refused .noPlaybackEngine)

/-- `RENDER n` drains blocks while they fit and returns exactly the requested number of samples; every field of the state it
leaves is given. Every block drained fitted `ACC_CAP` when it was, and a block left did not (R131, R135 to R137, R145;
decisions D11 to D13, D16, D17). `m` is the request: `n`, or some number of `NW` bits where `n` is none (log entry 13). -/
def Obligations.RenderDrainsAndReturnsBlock : Prop :=
  ∀ (s : State) (n c : Nat), Running s → s.cfg.pbCh = some c → s.pb.state = .idle →
    ∃ (t : State) (m k : Nat) (acc : List Sample), exec (.render n) s = .next t ∧
      m < 2 ^ s.cfg.nw ∧ (n < 2 ^ s.cfg.nw → m = n) ∧
      k ≤ (s.blocks c).length ∧ acc = s.pb.acc ++ ((s.blocks c).take k).flatten ∧
      (∀ j < k, ∀ a, s.cfg.accCap = some a →
        (s.pb.acc ++ ((s.blocks c).take j).flatten).length + s.cfg.ns ≤ a) ∧
      (k < (s.blocks c).length → ∃ a, s.cfg.accCap = some a ∧ a < acc.length + s.cfg.ns) ∧
      t.pb.out = (acc.take m).map (gainclip s.cfg) ++ List.replicate (m - acc.length) 0 ∧
      t.pb.out.length = m ∧ t.pb.acc = acc.drop m ∧ t.pb.state = .idle ∧ t.pb.req = m ∧ t.pb.drained = k ∧
      t.pb.need = (s.blocks c).length - k ∧
      t.pb.underrunCnt =
        (if acc.length < m then (s.pb.underrunCnt + 1) % 2 ^ s.cfg.cntW else s.pb.underrunCnt) ∧
      t.pb.starved = (decide (acc.length < m) && decide (k = 0)) ∧
      t.diag = (if acc.length < m then s.diag ++ [.playbackUnderrun acc.length m] else s.diag) ∧
      t.blocks c = (s.blocks c).drop k ∧ (∀ d, d ≠ c → t.blocks d = s.blocks d) ∧
      (∀ d, t.dropCnt d = s.dropCnt d) ∧
      t = { s with ch := t.ch, pb := t.pb, diag := t.diag }

/-- With an unbounded accumulator `RENDER n` is `RBEGIN n`, one `RPOP` for each block the Channel holds, and `REND`, with no
other step in between (R74, R145, which the spec derives; decision D23). For a request that does not fit `NW` bits, that both
take over the same number is the model's choice (log entry 13). -/
def Obligations.RenderIsItsThreePhases : Prop :=
  ∀ (s : State) (n c : Nat), Running s → s.cfg.pbCh = some c → s.cfg.accCap = none → s.pb.state = .idle →
    exec (.render n) s = execAll (.rbegin n :: (List.replicate (s.blocks c).length .rpop ++ [.rend])) s

/-- A call never waits: in every state that meets the invariant a drain in progress can pop or can end, for every
`DRAIN_MODE` and every `ACC_CAP` (R130, R134). -/
def Obligations.DrainIsNeverStuck : Prop :=
  ∀ (s : State) (c : Nat), Inv s → Running s → s.cfg.pbCh = some c → s.pb.state = .draining →
    (∃ t, exec .rpop s = .next t) ∨ (∃ t, exec .rend s = .next t)

/-- The rounding function has the laws of R141 in both its forms, whatever the free value is: monotone, the identity on
integers, error below 1 (decision D15; log entry 6). -/
def Obligations.NarrowHasItsLaws : Prop :=
  ∀ (n : Narrow) (gf : Nat),
    (∀ a b : Int, a ≤ b → narrowTo n a gf ≤ narrowTo n b gf) ∧
    (∀ m : Int, narrowTo n (m * 2 ^ gf) gf = m) ∧
    (∀ a : Int, narrowTo n a gf * 2 ^ gf - a < 2 ^ gf ∧ a - narrowTo n a gf * 2 ^ gf < 2 ^ gf)

/-- The gain stage multiplies exactly and saturates to the int24 range, and clamping before or after the narrowing gives the
same sample (R138 to R141; decisions D14, D15). -/
def Obligations.GainClipSaturates : Prop :=
  ∀ (c : Config) (x : Sample),
    (gainclip c x).toInt = clamp (narrowTo c.narrow (x.toInt * c.gain) c.gf) int24Min int24Max ∧
    inInt24 (gainclip c x)

/-- A gain of factor 1.0 is the identity on the int24 range; factor 2.0 clamps the greatest and the least sample to themselves
and never wraps (R146, R147, which the spec derives; decision D14). -/
def Obligations.UnityGainIsIdentity : Prop :=
  ∀ (c : Config) (x : Sample),
    (c.gain = 2 ^ c.gf → inInt24 x → gainclip c x = x) ∧
    (c.gain = 2 * 2 ^ c.gf → x.toInt = int24Max ∨ x.toInt = int24Min → gainclip c x = x)

/-- A sample that is not negative never becomes negative, and one that is not positive never becomes positive (R140). -/
def Obligations.GainKeepsSign : Prop :=
  ∀ (c : Config) (x : Sample),
    (0 ≤ x.toInt → 0 ≤ (gainclip c x).toInt) ∧ (x.toInt ≤ 0 → (gainclip c x).toInt ≤ 0)

/-- Reading a sample at an output port changes nothing; a gain presented on its input changes nothing but that input and the
record that the inputs changed, and a legal one takes effect at the next `RESET` (R47, R63, R65, R154, R220; that the format
rows run so is the model's reading, log entry 10; the record is log entry 7). A number is decoded as a gain exactly where
it has `GW` bits (R65). -/
def Obligations.OutputReadsAndGainInput : Prop :=
  ∀ (s : State) (v : BitVec 24) (g : Nat) (l : Bool),
    exec (.samp32 v) s = .next s ∧
    exec (.gainq g) s = .next { s with env := { s.env with
      cfgIn := { s.env.cfgIn with gain := g }, cfgMoved := s.env.cfgMoved || decide (g ≠ s.env.cfgIn.gain) } } ∧
    (decode s.linkCtx (.gain g) = .ok (.gainq g) ↔ g < 2 ^ s.env.cfgIn.gw) ∧
    (({ s.env.cfgIn with gain := g } : Config).legal = true →
      ∃ t, execAll [.gainq g, .reset l] s = .next t ∧ t.cfg.gain = g ∧ InputsStable t)

/-! ## System operations -/

/-- `STOP` sets the shutdown flag and changes nothing else (R150; decision D7). -/
def Obligations.StopSetsFlagOnly : Prop :=
  ∀ s : State, Running s → exec .stop s = .next { s with stop := true }

/-- `RESTART` from `HALTED` begins a new search with an empty window, or stops when the flag is set, and touches no queue, no
counter and no log; anywhere else it is refused (R152; decision D1). That `fs.win` keeps its bits is log entry 14. -/
def Obligations.RestartReturnsToSearch : Prop :=
  ∀ s : State, Running s →
    (s.fs.state = .halted → exec .restart s = .next { s with
      fs := { s.fs with wcnt := 0, cnt := 0, state := if s.stop then .stopped else .seeking } }) ∧
    (s.fs.state ≠ .halted → exec .restart s = .refused .notHalted)

/-- `RESET l` from every state, also `FATAL`, with a legal configuration presented: every piece of state to which R36 gives a
value has that value, the configuration is latched, nothing is reported (R36, R154, R210 to R212; decisions D21, D22). The
outside is kept, and its configuration inputs count as unchanged from then on (log entries 25, 7). -/
def Obligations.ResetGivesResetState : Prop :=
  ∀ (s : State) (l : Bool), s.env.cfgIn.legal = true →
    ∃ t, exec (.reset l) s = .next t ∧ t.cfg = s.env.cfgIn ∧
      t.env = { s.env with cfgMoved := false } ∧
      t.fs.state = (if l then .seeking else .fatal) ∧ t.fs.wcnt = 0 ∧ t.fs.cnt = 0 ∧ t.iq = [] ∧ t.iqDropCnt = 0 ∧
      t.pr.state = .idle ∧ t.pr.idx = 0 ∧ t.ch.length = t.cfg.nch ∧ (∀ c, t.blocks c = [] ∧ t.dropCnt c = 0) ∧
      t.pb.state = .idle ∧ t.pb.acc = [] ∧ t.pb.req = 0 ∧ t.pb.need = 0 ∧ t.pb.drained = 0 ∧ t.pb.out = [] ∧
      t.pb.underrunCnt = 0 ∧ t.pb.starved = false ∧ t.stop = false ∧ t.diag = []

/-- In `FATAL` no operation and no class of a received byte is enabled but `RESET` (R211; decision D22). -/
def Obligations.FatalRefusesAllButReset : Prop :=
  ∀ (s : State) (i : Instr), s.fs.state = .fatal → (∀ l, i ≠ .reset l) → (∀ v, i ≠ .samp32 v) → (∀ g, i ≠ .gainq g) →
    ∃ q, exec i s = .refused q

/-- TFS has no behaviour under an illegal configuration: no operation runs under one, and none can be latched (R6; decision
D4). Nor once the configuration inputs have changed since the reset, also when they were put back (R7, R230; log entry 7). -/
def Obligations.IllegalOrChangedConfigurationIsRefused : Prop :=
  ∀ (s : State) (i : Instr),
    ((∀ l, i ≠ .reset l) → (∀ v, i ≠ .samp32 v) → (∀ g, i ≠ .gainq g) →
      (s.cfg.legal = false → exec i s = .refused .illegalConfig) ∧
      (s.cfg.legal = true → ¬ InputsStable s → exec i s = .refused .configChanged) ∧
      (s.cfg.legal = true → ∀ c d : Config, c ≠ s.env.cfgIn →
        exec i (presentConfig d (presentConfig c s)) = .refused .configChanged)) ∧
    (∀ l, s.env.cfgIn.legal = false → exec (.reset l) s = .refused .illegalConfig)

/-- In a quiescent state no internal operation is enabled (R156, R196; decision D26). A run that is over stays over: no step
changes anything of TFS, but that in `FATAL`, where a run is over at once, a `RESET` may begin a new one (R211, decision D22);
and where the schedule is at its end and the outside does nothing more, every step is a tick and nothing else. How the model
holds that the external agents do nothing more, and that the `RESET` begins a new run, is its choice (log entry 30). -/
def Obligations.QuiescentStateHasNoInternalStep : Prop :=
  ∀ s : State,
    (Quiescent s → ∀ i ∈ [Instr.fetch, Instr.push, Instr.rpop, Instr.rend], ∃ q, exec i s = .refused q) ∧
    (RunOver s → ∀ t, step s = .next t →
      (RunOver t ∧ t = { s with env := t.env }) ∨
        (s.fs.state = .fatal ∧ ∃ (c : Config) (l : Bool) (e : Env), c.legal = true ∧ t = State.afterReset c l e)) ∧
    (RunOver s → OutsideDone s → ∀ t, step s = .next t → RunOver t ∧ OutsideDone t ∧ t = { s with env := t.env }) ∧
    (RunOver s → OutsideDone s → s.env.script = [] → s.cfg.legal = true → InputsStable s →
      step s = .next { s with env := { s.env with tick := s.env.tick + 1 } })

/-! ## Whole-machine rules -/

/-- The reset state meets the invariant, and so does what `RESET` leaves under every legal configuration; there every counter
agrees with the empty log (R36, R37). -/
def Obligations.ResetMeetsInvariant : Prop :=
  (Inv State.reset ∧ CountersMatchLog State.reset) ∧
    ∀ (c : Config) (l : Bool) (e : Env), c.legal = true →
      Inv (State.afterReset c l e) ∧ CountersMatchLog (State.afterReset c l e)

/-- The invariant of R37 is kept by every step from every state that meets it. -/
def Obligations.StepKeepsInvariant : Prop :=
  ∀ s t : State, Inv s → step s = .next t → Inv t

/-- Every counter shows how many of its events the log holds: in every step the counters stay the numbers of their events in
the log, modulo `2^CNT_W` (R18, R22, R26, R180, R195; decisions D10, D19). -/
def Obligations.StepKeepsCountersMatchingLog : Prop :=
  ∀ s t : State, CountersMatchLog s → step s = .next t → CountersMatchLog t

/-- The log is append-only but for `RESET`, no event is ever `AlignmentAmbiguous`, and an operation that is one byte, one
timeout or one step raises at most one event (R33, R180, R191; decisions D19, D29). -/
def Obligations.DiagnosticLogOnlyGrows : Prop :=
  ∀ (i : Instr) (s t : State), exec i s = .next t → (∀ l, i ≠ .reset l) →
    ∃ es : List Event, t.diag = s.diag ++ es ∧ Event.alignmentAmbiguous ∉ es ∧
      ((∀ p, i ≠ .frame p) → (∀ g v, i ≠ .cont32 g v) → es.length ≤ 1)

/-- Configuration is constant from one reset to the next (R7; decision D4). -/
def Obligations.ConfigurationIsConstant : Prop :=
  ∀ (i : Instr) (s t : State), exec i s = .next t → (∀ l, i ≠ .reset l) → t.cfg = s.cfg

/-- Ownership: but for `RESET`, each structure is written only by the agents the owner column of R10 and the table of R40
name; `RESTART` is the Controller's one way to the Reader, `STOP` its one way to the shutdown flag. A Channel's content is
written by Processing and by its one consumer: the Playback Engine for `PB_CH`, the consumer a `POP` names for the others. The
log is appended to by agents inside TFS only, how is DiagnosticLogOnlyGrows; the configuration is written by `RESET` only.
`popRsp` and `env` are the model's own fields (log entries 11, 2, 10). -/
def Obligations.OnlyOwnersWrite : Prop :=
  ∀ (i : Instr) (s t : State), exec i s = .next t → (∀ l, i ≠ .reset l) →
    (i.agent ≠ .reader → i ≠ .restart → t.fs = s.fs) ∧
    (i.agent ≠ .reader → t.iqDropCnt = s.iqDropCnt) ∧
    (i.agent ≠ .reader → i ≠ .fetch → t.iq = s.iq) ∧
    (i.agent ≠ .processing → t.pr = s.pr ∧ ∀ c, t.dropCnt c = s.dropCnt c) ∧
    (i.agent ≠ .playback → t.pb = s.pb) ∧
    (i ≠ .stop → t.stop = s.stop) ∧
    (i.agent ≠ .consumer → t.popRsp = s.popRsp) ∧
    (i.agent ≠ .processing → i.agent ≠ .consumer → i.agent ≠ .playback → t.ch = s.ch) ∧
    (i.agent = .playback → ∀ c, s.cfg.pbCh ≠ some c → t.blocks c = s.blocks c) ∧
    (i.agent = .consumer → ∀ c, i ≠ .pop c → t.blocks c = s.blocks c) ∧
    (i = .fetch → t.ch = s.ch) ∧
    (i.agent = .controller ∨ i.agent = .consumer ∨ i.agent = .audioSink → t.diag = s.diag) ∧
    t.cfg = s.cfg ∧
    ((∀ g, i ≠ .gainq g) → t.env = s.env)
end

