-- ==== Sys2Proof/Laws/State.lean ====
section
/-! SUPPORT. One lemma per field for each update of the state, true by unfolding, so that no later proof unfolds a record
update. -/

namespace Sys2Proof.Machine

/-! ## State.setFs -/

@[simp] theorem State.setFs_cfg (s : State) (f : Fs) : (s.setFs f).cfg = s.cfg := rfl
@[simp] theorem State.setFs_fs (s : State) (f : Fs) : (s.setFs f).fs = f := rfl
@[simp] theorem State.setFs_iq (s : State) (f : Fs) : (s.setFs f).iq = s.iq := rfl
@[simp] theorem State.setFs_iqDropCnt (s : State) (f : Fs) : (s.setFs f).iqDropCnt = s.iqDropCnt := rfl
@[simp] theorem State.setFs_pr (s : State) (f : Fs) : (s.setFs f).pr = s.pr := rfl
@[simp] theorem State.setFs_ch (s : State) (f : Fs) : (s.setFs f).ch = s.ch := rfl
@[simp] theorem State.setFs_pb (s : State) (f : Fs) : (s.setFs f).pb = s.pb := rfl
@[simp] theorem State.setFs_stop (s : State) (f : Fs) : (s.setFs f).stop = s.stop := rfl
@[simp] theorem State.setFs_diag (s : State) (f : Fs) : (s.setFs f).diag = s.diag := rfl
@[simp] theorem State.setFs_popRsp (s : State) (f : Fs) : (s.setFs f).popRsp = s.popRsp := rfl
@[simp] theorem State.setFs_env (s : State) (f : Fs) : (s.setFs f).env = s.env := rfl

/-! ## State.setPb -/

@[simp] theorem State.setPb_cfg (s : State) (p : Pb) : (s.setPb p).cfg = s.cfg := rfl
@[simp] theorem State.setPb_fs (s : State) (p : Pb) : (s.setPb p).fs = s.fs := rfl
@[simp] theorem State.setPb_iq (s : State) (p : Pb) : (s.setPb p).iq = s.iq := rfl
@[simp] theorem State.setPb_iqDropCnt (s : State) (p : Pb) : (s.setPb p).iqDropCnt = s.iqDropCnt := rfl
@[simp] theorem State.setPb_pr (s : State) (p : Pb) : (s.setPb p).pr = s.pr := rfl
@[simp] theorem State.setPb_ch (s : State) (p : Pb) : (s.setPb p).ch = s.ch := rfl
@[simp] theorem State.setPb_pb (s : State) (p : Pb) : (s.setPb p).pb = p := rfl
@[simp] theorem State.setPb_stop (s : State) (p : Pb) : (s.setPb p).stop = s.stop := rfl
@[simp] theorem State.setPb_diag (s : State) (p : Pb) : (s.setPb p).diag = s.diag := rfl
@[simp] theorem State.setPb_popRsp (s : State) (p : Pb) : (s.setPb p).popRsp = s.popRsp := rfl
@[simp] theorem State.setPb_env (s : State) (p : Pb) : (s.setPb p).env = s.env := rfl

/-! ## State.setBlocks -/

@[simp] theorem State.setBlocks_cfg (s : State) (c : Nat) (q : List Block) : (s.setBlocks c q).cfg = s.cfg := rfl
@[simp] theorem State.setBlocks_fs (s : State) (c : Nat) (q : List Block) : (s.setBlocks c q).fs = s.fs := rfl
@[simp] theorem State.setBlocks_iq (s : State) (c : Nat) (q : List Block) : (s.setBlocks c q).iq = s.iq := rfl
@[simp] theorem State.setBlocks_iqDropCnt (s : State) (c : Nat) (q : List Block) : (s.setBlocks c q).iqDropCnt = s.iqDropCnt := rfl
@[simp] theorem State.setBlocks_pr (s : State) (c : Nat) (q : List Block) : (s.setBlocks c q).pr = s.pr := rfl
@[simp] theorem State.setBlocks_ch (s : State) (c : Nat) (q : List Block) : (s.setBlocks c q).ch = s.ch.modify c (fun k => { k with blocks := q }) := rfl
@[simp] theorem State.setBlocks_pb (s : State) (c : Nat) (q : List Block) : (s.setBlocks c q).pb = s.pb := rfl
@[simp] theorem State.setBlocks_stop (s : State) (c : Nat) (q : List Block) : (s.setBlocks c q).stop = s.stop := rfl
@[simp] theorem State.setBlocks_diag (s : State) (c : Nat) (q : List Block) : (s.setBlocks c q).diag = s.diag := rfl
@[simp] theorem State.setBlocks_popRsp (s : State) (c : Nat) (q : List Block) : (s.setBlocks c q).popRsp = s.popRsp := rfl
@[simp] theorem State.setBlocks_env (s : State) (c : Nat) (q : List Block) : (s.setBlocks c q).env = s.env := rfl

/-! ## State.withScript -/

@[simp] theorem State.withScript_cfg (s : State) (l : List Input) : (s.withScript l).cfg = s.cfg := rfl
@[simp] theorem State.withScript_fs (s : State) (l : List Input) : (s.withScript l).fs = s.fs := rfl
@[simp] theorem State.withScript_iq (s : State) (l : List Input) : (s.withScript l).iq = s.iq := rfl
@[simp] theorem State.withScript_iqDropCnt (s : State) (l : List Input) : (s.withScript l).iqDropCnt = s.iqDropCnt := rfl
@[simp] theorem State.withScript_pr (s : State) (l : List Input) : (s.withScript l).pr = s.pr := rfl
@[simp] theorem State.withScript_ch (s : State) (l : List Input) : (s.withScript l).ch = s.ch := rfl
@[simp] theorem State.withScript_pb (s : State) (l : List Input) : (s.withScript l).pb = s.pb := rfl
@[simp] theorem State.withScript_stop (s : State) (l : List Input) : (s.withScript l).stop = s.stop := rfl
@[simp] theorem State.withScript_diag (s : State) (l : List Input) : (s.withScript l).diag = s.diag := rfl
@[simp] theorem State.withScript_popRsp (s : State) (l : List Input) : (s.withScript l).popRsp = s.popRsp := rfl
@[simp] theorem State.withScript_env (s : State) (l : List Input) : (s.withScript l).env = { s.env with script := l } := rfl

/-! ## State.ticked -/

@[simp] theorem State.ticked_cfg (s : State) : s.ticked.cfg = s.cfg := rfl
@[simp] theorem State.ticked_fs (s : State) : s.ticked.fs = s.fs := rfl
@[simp] theorem State.ticked_iq (s : State) : s.ticked.iq = s.iq := rfl
@[simp] theorem State.ticked_iqDropCnt (s : State) : s.ticked.iqDropCnt = s.iqDropCnt := rfl
@[simp] theorem State.ticked_pr (s : State) : s.ticked.pr = s.pr := rfl
@[simp] theorem State.ticked_ch (s : State) : s.ticked.ch = s.ch := rfl
@[simp] theorem State.ticked_pb (s : State) : s.ticked.pb = s.pb := rfl
@[simp] theorem State.ticked_stop (s : State) : s.ticked.stop = s.stop := rfl
@[simp] theorem State.ticked_diag (s : State) : s.ticked.diag = s.diag := rfl
@[simp] theorem State.ticked_popRsp (s : State) : s.ticked.popRsp = s.popRsp := rfl
@[simp] theorem State.ticked_env (s : State) : s.ticked.env = { s.env with tick := s.env.tick + 1 } := rfl

/-! ## presentConfig -/

@[simp] theorem presentConfig_cfg (c : Config) (s : State) : (presentConfig c s).cfg = s.cfg := rfl
@[simp] theorem presentConfig_fs (c : Config) (s : State) : (presentConfig c s).fs = s.fs := rfl
@[simp] theorem presentConfig_iq (c : Config) (s : State) : (presentConfig c s).iq = s.iq := rfl
@[simp] theorem presentConfig_iqDropCnt (c : Config) (s : State) : (presentConfig c s).iqDropCnt = s.iqDropCnt := rfl
@[simp] theorem presentConfig_pr (c : Config) (s : State) : (presentConfig c s).pr = s.pr := rfl
@[simp] theorem presentConfig_ch (c : Config) (s : State) : (presentConfig c s).ch = s.ch := rfl
@[simp] theorem presentConfig_pb (c : Config) (s : State) : (presentConfig c s).pb = s.pb := rfl
@[simp] theorem presentConfig_stop (c : Config) (s : State) : (presentConfig c s).stop = s.stop := rfl
@[simp] theorem presentConfig_diag (c : Config) (s : State) : (presentConfig c s).diag = s.diag := rfl
@[simp] theorem presentConfig_popRsp (c : Config) (s : State) : (presentConfig c s).popRsp = s.popRsp := rfl
@[simp] theorem presentConfig_env (c : Config) (s : State) : (presentConfig c s).env =
    { s.env with cfgIn := c, cfgMoved := s.env.cfgMoved || decide (c ≠ s.env.cfgIn) } := rfl

/-! ## State.count and State.raise: an event writes its counter and the log, nothing else (R180, R192) -/

@[simp] theorem State.count_cfg (s : State) (e : Event) : (s.count e).cfg = s.cfg := by cases e <;> rfl
@[simp] theorem State.raise_cfg (s : State) (e : Event) : (s.raise e).cfg = s.cfg := by cases e <;> rfl
@[simp] theorem State.count_fs (s : State) (e : Event) : (s.count e).fs = s.fs := by cases e <;> rfl
@[simp] theorem State.raise_fs (s : State) (e : Event) : (s.raise e).fs = s.fs := by cases e <;> rfl
@[simp] theorem State.count_iq (s : State) (e : Event) : (s.count e).iq = s.iq := by cases e <;> rfl
@[simp] theorem State.raise_iq (s : State) (e : Event) : (s.raise e).iq = s.iq := by cases e <;> rfl
@[simp] theorem State.count_pr (s : State) (e : Event) : (s.count e).pr = s.pr := by cases e <;> rfl
@[simp] theorem State.raise_pr (s : State) (e : Event) : (s.raise e).pr = s.pr := by cases e <;> rfl
@[simp] theorem State.count_stop (s : State) (e : Event) : (s.count e).stop = s.stop := by cases e <;> rfl
@[simp] theorem State.raise_stop (s : State) (e : Event) : (s.raise e).stop = s.stop := by cases e <;> rfl
@[simp] theorem State.count_diag (s : State) (e : Event) : (s.count e).diag = s.diag := by cases e <;> rfl
@[simp] theorem State.count_popRsp (s : State) (e : Event) : (s.count e).popRsp = s.popRsp := by cases e <;> rfl
@[simp] theorem State.raise_popRsp (s : State) (e : Event) : (s.raise e).popRsp = s.popRsp := by cases e <;> rfl
@[simp] theorem State.count_env (s : State) (e : Event) : (s.count e).env = s.env := by cases e <;> rfl
@[simp] theorem State.raise_env (s : State) (e : Event) : (s.raise e).env = s.env := by cases e <;> rfl
@[simp] theorem State.raise_diag (s : State) (e : Event) : (s.raise e).diag = s.diag ++ [e] := by
  cases e <;> rfl

theorem State.raise_ingressFull (s : State) : s.raise .ingressFull =
    { s with iqDropCnt := bump s.cfg s.iqDropCnt, diag := s.diag ++ [.ingressFull] } := rfl

theorem State.raise_channelFull (s : State) (c : Nat) : s.raise (.channelFull c) =
    { s with ch := s.ch.modify c (fun k => { k with dropCnt := bump s.cfg k.dropCnt }),
             diag := s.diag ++ [.channelFull c] } := rfl

theorem State.raise_playbackUnderrun (s : State) (k n : Nat) : s.raise (.playbackUnderrun k n) =
    { s with pb := { s.pb with underrunCnt := bump s.cfg s.pb.underrunCnt },
             diag := s.diag ++ [.playbackUnderrun k n] } := rfl

theorem State.raise_linkTimeout (s : State) : s.raise .linkTimeout = { s with diag := s.diag ++ [.linkTimeout] } := rfl

theorem State.raise_frameCorrupt (s : State) (b : List Byte) (n : Nat) : s.raise (.frameCorrupt b n) =
    { s with diag := s.diag ++ [.frameCorrupt b n] } := rfl

/-! ## The link context -/

@[simp] theorem State.linkCtx_phase (s : State) : s.linkCtx.phase = s.fs.state.phase := rfl
@[simp] theorem State.linkCtx_win (s : State) : s.linkCtx.win = s.fs.win := rfl
@[simp] theorem State.linkCtx_wcnt (s : State) : s.linkCtx.wcnt = s.fs.wcnt := rfl
@[simp] theorem State.linkCtx_cnt (s : State) : s.linkCtx.cnt = s.fs.cnt := rfl
@[simp] theorem State.linkCtx_m0 (s : State) : s.linkCtx.m0 = s.cfg.m0 := rfl
@[simp] theorem State.linkCtx_m1 (s : State) : s.linkCtx.m1 = s.cfg.m1 := rfl
@[simp] theorem State.linkCtx_payloadSize (s : State) : s.linkCtx.payloadSize = s.cfg.payloadSize := rfl
@[simp] theorem State.linkCtx_gw (s : State) : s.linkCtx.gw = s.env.cfgIn.gw := rfl

/-! ## The state after a reset (R36) -/

@[simp] theorem State.afterReset_cfg (c : Config) (l : Bool) (e : Env) :
    (State.afterReset c l e).cfg = c := rfl
@[simp] theorem State.afterReset_iq (c : Config) (l : Bool) (e : Env) :
    (State.afterReset c l e).iq = [] := rfl
@[simp] theorem State.afterReset_iqDropCnt (c : Config) (l : Bool) (e : Env) :
    (State.afterReset c l e).iqDropCnt = 0 := rfl
@[simp] theorem State.afterReset_stop (c : Config) (l : Bool) (e : Env) :
    (State.afterReset c l e).stop = false := rfl
@[simp] theorem State.afterReset_diag (c : Config) (l : Bool) (e : Env) :
    (State.afterReset c l e).diag = [] := rfl
@[simp] theorem State.afterReset_popRsp (c : Config) (l : Bool) (e : Env) :
    (State.afterReset c l e).popRsp = none := rfl
@[simp] theorem State.afterReset_env (c : Config) (l : Bool) (e : Env) :
    (State.afterReset c l e).env = { e with cfgMoved := false } := rfl

end Sys2Proof.Machine
end

