-- ==== Sys2Proof/Laws/Ops.lean ====
section
/-! SUPPORT. One lemma for each shared operation: when it answers a next state and which. -/

namespace Sys2Proof.Machine

/-! ## Conditions -/

theorem notRunning_eq_none_iff (s : State) : notRunning s = none ↔ Running s := by
  unfold notRunning
  constructor
  · intro h
    split at h
    · cases h
    · split at h
      · cases h
      · split at h
        · cases h
        · next h1 h2 h3 =>
          obtain ⟨hm, hc⟩ := not_or.1 h2
          exact ⟨by simpa using h1, ⟨by simpa using hm, not_not.mp hc⟩, h3⟩
  · rintro ⟨h1, ⟨hm, hc⟩, h3⟩
    simp [h1, hm, hc, h3]

theorem whenRunning_of_running {s : State} (h : Running s) (k : Result) : whenRunning s k = k := by
  rw [whenRunning, (notRunning_eq_none_iff s).2 h]

theorem whenRunning_of_not_running {s : State} (h : ¬ Running s) (k : Result) : ∃ q, whenRunning s k = .refused q := by
  cases hq : notRunning s with
  | none => exact absurd ((notRunning_eq_none_iff s).1 hq) h
  | some q => exact ⟨q, by rw [whenRunning, hq]⟩

theorem whenRunning_eq_next {s t : State} {k : Result} : whenRunning s k = .next t ↔ Running s ∧ k = .next t := by
  by_cases h : Running s
  · rw [whenRunning_of_running h]
    exact ⟨fun e => ⟨h, e⟩, fun e => e.2⟩
  · obtain ⟨q, hq⟩ := whenRunning_of_not_running h k
    simp [hq, h]

theorem require_of_true {b : Bool} (h : b = true) (q : Refusal) (k : Result) : require b q k = k := by
  simp [require, h]

theorem require_of_false {b : Bool} (h : b = false) (q : Refusal) (k : Result) : require b q k = .refused q := by
  simp [require, h]

theorem require_eq_next {b : Bool} {q : Refusal} {k : Result} {t : State} :
    require b q k = .next t ↔ b = true ∧ k = .next t := by
  cases b <;> simp [require]

theorem andThen_eq_next {r : Result} {k : State → Result} {t : State} :
    andThen r k = .next t ↔ ∃ s, r = .next s ∧ k s = .next t := by
  cases r <;> simp [andThen]

theorem withPlayback_of_some {s : State} {c : Nat} (h : s.cfg.pbCh = some c) (k : Nat → Result) :
    withPlayback s k = k c := by rw [withPlayback, h]

theorem withPlayback_eq_next {s t : State} {k : Nat → Result} :
    withPlayback s k = .next t ↔ ∃ c, s.cfg.pbCh = some c ∧ k c = .next t := by
  unfold withPlayback
  cases h : s.cfg.pbCh <;> simp

/-! ## The latched request (R131) -/

theorem latchedRequest_of_lt {c : Config} {n : Nat} (h : n < 2 ^ c.nw) : latchedRequest c n = n := by
  rw [latchedRequest, if_pos h]

/-- Whatever the operand, the latched request has `NW` bits. -/
theorem latchedRequest_lt (c : Config) (n : Nat) : latchedRequest c n < 2 ^ c.nw := by
  unfold latchedRequest
  split
  · assumption
  · exact Nat.mod_lt _ (Nat.two_pow_pos _)

/-! ## Byte buffers -/

theorem memWrite_byte (buf : List Byte) (i : Nat) (b : Byte) : memWrite buf i 1 b.toNat = buf.set i b := by
  simp [memWrite]

/-! ## Queues (R110, R111) -/

theorem pushDrop_of_room {α : Type} {q : List α} {cap : Nat} (h : q.length < cap) (e : α) :
    pushDrop q cap e = (q ++ [e], true) := by simp [pushDrop, h]

theorem pushDrop_of_full {α : Type} {q : List α} {cap : Nat} (h : cap ≤ q.length) (e : α) :
    pushDrop q cap e = (q, false) := by simp [pushDrop, Nat.not_lt.2 h]

theorem popQueue_fst {α : Type} (q : List α) : (popQueue q).1 = q.head? := by cases q <;> rfl

theorem popQueue_snd {α : Type} (q : List α) : (popQueue q).2 = q.tail := by cases q <;> rfl

/-! ## Channels -/

theorem blocks_eq_of_ch {s t : State} (h : t.ch = s.ch) (c : Nat) : t.blocks c = s.blocks c := by
  simp [State.blocks, h]

theorem dropCnt_eq_of_ch {s t : State} (h : t.ch = s.ch) (c : Nat) : t.dropCnt c = s.dropCnt c := by
  simp [State.dropCnt, h]

theorem blocks_of_getElem? {s : State} {c : Nat} {k : Chan} (h : s.ch[c]? = some k) : s.blocks c = k.blocks := by
  simp [State.blocks, h]

theorem dropCnt_of_getElem? {s : State} {c : Nat} {k : Chan} (h : s.ch[c]? = some k) : s.dropCnt c = k.dropCnt := by
  simp [State.dropCnt, h]

theorem blocks_of_length_le {s : State} {c : Nat} (h : s.ch.length ≤ c) : s.blocks c = [] := by
  simp [State.blocks, h]

theorem modify_eq_set {α : Type} {l : List α} {c : Nat} {k : α} (h : l[c]? = some k) (f : α → α) :
    l.modify c f = l.set c (f k) := by
  apply List.ext_getElem?
  intro i
  rw [List.getElem?_modify, List.getElem?_set]
  by_cases hi : c = i
  · subst hi
    obtain ⟨hc, rfl⟩ := List.getElem?_eq_some_iff.1 h
    simp [hc]
  · simp [hi]

theorem blocks_setBlocks_self {s : State} {c : Nat} (h : c < s.ch.length) (q : List Block) :
    (s.setBlocks c q).blocks c = q := by
  simp [State.blocks, h]

theorem blocks_setBlocks_ne {s : State} {c d : Nat} (h : d ≠ c) (q : List Block) :
    (s.setBlocks c q).blocks d = s.blocks d := by
  simp [State.blocks, Ne.symm h]

/-- The content a Channel has after its own content is replaced, also where there is no such Channel. -/
theorem blocks_setBlocks (s : State) (c d : Nat) (q : List Block) :
    (s.setBlocks c q).blocks d = if d = c ∧ c < s.ch.length then q else s.blocks d := by
  by_cases hd : d = c
  · subst hd
    by_cases hc : d < s.ch.length
    · simp [blocks_setBlocks_self hc, hc]
    · rw [blocks_of_length_le (by simpa using hc), blocks_of_length_le (by simpa using hc)]
      simp [hc]
  · simp [blocks_setBlocks_ne hd, hd]

theorem dropCnt_setBlocks (s : State) (c d : Nat) (q : List Block) : (s.setBlocks c q).dropCnt d = s.dropCnt d := by
  simp only [State.dropCnt, State.setBlocks_ch, List.getElem?_modify]
  by_cases h : c = d
  · subst h
    cases s.ch[c]? <;> simp
  · cases s.ch[d]? <;> simp [h]

theorem setBlocks_of_getElem? {s : State} {c : Nat} {k : Chan} (h : s.ch[c]? = some k) (q : List Block) :
    s.setBlocks c q = { s with ch := s.ch.set c { k with blocks := q } } := by
  simp [State.setBlocks, modify_eq_set h]

theorem setBlocks_blocks (s : State) (c : Nat) : s.setBlocks c (s.blocks c) = s := by
  cases h : s.ch[c]? with
  | none =>
    have : s.ch.length ≤ c := by simpa using h
    simp only [State.setBlocks]
    rw [List.modify_eq_self this]
  | some k =>
    rw [setBlocks_of_getElem? h, blocks_of_getElem? h]
    obtain ⟨hc, hk⟩ := List.getElem?_eq_some_iff.1 h
    have : s.ch.set c { k with blocks := k.blocks } = s.ch := by
      subst hk
      exact List.set_getElem_self hc
    rw [this]

/-! ## Raising an event at a Channel -/

theorem blocks_raise (s : State) (e : Event) (d : Nat) : (s.raise e).blocks d = s.blocks d := by
  cases e with
  | channelFull c =>
    simp only [State.raise_channelFull, State.blocks, List.getElem?_modify]
    cases s.ch[d]? with
    | none => rfl
    | some k => by_cases h : c = d <;> simp [h]
  | _ => rfl

theorem dropCnt_raise_ne (s : State) {e : Event} {d : Nat} (h : e ≠ .channelFull d) :
    (s.raise e).dropCnt d = s.dropCnt d := by
  cases e with
  | channelFull c =>
    have hc : c ≠ d := fun hcd => h (by rw [hcd])
    simp only [State.raise_channelFull, State.dropCnt, List.getElem?_modify]
    cases s.ch[d]? <;> simp [hc]
  | _ => rfl

theorem dropCnt_raise_self {s : State} {c : Nat} (h : c < s.ch.length) :
    (s.raise (.channelFull c)).dropCnt c = bump s.cfg (s.dropCnt c) := by
  simp [State.raise_channelFull, State.dropCnt, h]

theorem length_ch_raise (s : State) (e : Event) : (s.raise e).ch.length = s.ch.length := by
  cases e <;> simp [State.raise, State.count]

/-! ## The drain's conditions say what R133 and R134 say -/

theorem rpopBlocked_iff (s : State) : rpopBlocked s = true ↔ AccFull s := by
  unfold rpopBlocked AccFull
  cases s.cfg.accCap <;> simp

theorem rendEnabled_iff (c : Nat) (s : State) : rendEnabled c s = true ↔ RendReady c s := by
  unfold rendEnabled
  rw [Bool.and_eq_true, Bool.or_eq_true, rpopBlocked_iff]
  cases h : s.cfg.drainMode <;> simp [RendReady, h]

theorem rpopEnabled_iff (c : Nat) (s : State) : rpopEnabled c s = true ↔ RpopReady c s := by
  unfold rpopEnabled
  have hb : (!rpopBlocked s) = true ↔ ¬ AccFull s := by
    rw [← rpopBlocked_iff]
    simp
  rw [Bool.and_eq_true, Bool.and_eq_true, Bool.and_eq_true, hb]
  cases h : s.cfg.drainMode <;> simp [RpopReady, h]

end Sys2Proof.Machine
end

