-- ==== Sys2Proof/Laws/Exec.lean ====
section
/-! SUPPORT. One inversion lemma for each meaning: exactly when it answers a next state, and which state that is. The
provers cite these instead of unfolding a meaning. -/

namespace Sys2Proof.Machine

theorem next_eq_next {a t : State} : (Host.Outcome.next a : Result) = .next t ↔ t = a := by
  rw [Host.Outcome.next.injEq, eq_comm]

theorem fits_frame {x : LinkCtx} {p : List Byte} : Instr.fits x (.frame p) = true ↔ p.length = x.payloadSize :=
  decide_eq_true_iff

/-! ## Frame Synchronizer -/

/-- All that taking one byte can do (R81 to R86). -/
theorem readByte_eq_next {b : Byte} {s t : State} : readByte b s = .next t ↔
    (s.fs.state = .seeking ∧ windowMatches s.fs.win s.fs.wcnt b s.cfg.m0 s.cfg.m1 = true ∧ t = takeSof s) ∨
    (s.fs.state = .seeking ∧ windowMatches s.fs.win s.fs.wcnt b s.cfg.m0 s.cfg.m1 = false ∧ t = takeSkip b s) ∨
    (s.fs.state = .readingPayload ∧ s.fs.cnt + 1 < s.cfg.payloadSize ∧ t = takePay b s) ∨
    (s.fs.state = .readingPayload ∧ s.fs.cnt + 1 = s.cfg.payloadSize ∧ t = takePayLast b s) := by
  unfold readByte
  cases hs : s.fs.state
  case seeking =>
    by_cases hw : windowMatches s.fs.win s.fs.wcnt b s.cfg.m0 s.cfg.m1 = true
    · simp [hw, @eq_comm _ t]
    · rw [Bool.not_eq_true] at hw
      simp [hw, @eq_comm _ t]
  case readingPayload =>
    by_cases h1 : s.fs.cnt + 1 < s.cfg.payloadSize
    · have h2 : s.fs.cnt + 1 ≠ s.cfg.payloadSize := Nat.ne_of_lt h1
      simp [h1, h2, @eq_comm _ t]
    · by_cases h2 : s.fs.cnt + 1 = s.cfg.payloadSize
      · simp [h2, @eq_comm _ t]
      · simp [h1, h2]
  all_goals simp

theorem readBytes_nil (s : State) : readBytes [] s = .next s := rfl

theorem readBytes_cons_eq_next {b : Byte} {l : List Byte} {s t : State} :
    readBytes (b :: l) s = .next t ↔ ∃ u, readByte b s = .next u ∧ readBytes l u = .next t := andThen_eq_next

/-- A property every byte keeps is kept by any number of bytes. -/
theorem readBytes_induct {P : State → State → Prop} (refl : ∀ s, P s s)
    (trans : ∀ s u t, P s u → P u t → P s t) (byte : ∀ b s t, readByte b s = .next t → P s t) :
    ∀ (l : List Byte) (s t : State), readBytes l s = .next t → P s t
  | [], s, t, h => by
    cases h
    exact refl s
  | b :: l, s, t, h => by
    obtain ⟨u, hu, ht⟩ := readBytes_cons_eq_next.1 h
    exact trans s u t (byte b s u hu) (readBytes_induct refl trans byte l u t ht)

theorem readTimeout_eq_next {s t : State} : readTimeout s = .next t ↔
    (s.fs.state = .seeking ∧ t = timeoutSeeking s) ∨ (s.fs.state = .readingPayload ∧ t = timeoutPayload s) := by
  unfold readTimeout
  cases s.fs.state <;> simp [eq_comm]

theorem execRxb_eq_next {b : Byte} {s t : State} :
    execRxb b s = .next t ↔ Running s ∧ readByte b s = .next t := whenRunning_eq_next

theorem execTmo_eq_next {s t : State} :
    execTmo s = .next t ↔ Running s ∧ readTimeout s = .next t := whenRunning_eq_next

theorem execSof_eq_next {o n : Byte} {s t : State} : execSof o n s = .next t ↔
    Running s ∧ Instr.fits s.linkCtx (.sof o n) = true ∧ t = takeSof s := by
  simp only [execSof, whenRunning_eq_next, require_eq_next, next_eq_next]

theorem execSkip_eq_next {o n : Byte} {s t : State} : execSkip o n s = .next t ↔
    Running s ∧ Instr.fits s.linkCtx (.skip o n) = true ∧ t = takeSkip n s := by
  simp only [execSkip, whenRunning_eq_next, require_eq_next, next_eq_next]

theorem execPay_eq_next {b : Byte} {s t : State} : execPay b s = .next t ↔
    Running s ∧ Instr.fits s.linkCtx (.pay b) = true ∧ t = takePay b s := by
  simp only [execPay, whenRunning_eq_next, require_eq_next, next_eq_next]

theorem execPayLast_eq_next {b : Byte} {s t : State} : execPayLast b s = .next t ↔
    Running s ∧ Instr.fits s.linkCtx (.payLast b) = true ∧ t = takePayLast b s := by
  simp only [execPayLast, whenRunning_eq_next, require_eq_next, next_eq_next]

theorem execCont32_eq_next {g : Byte} {v : BitVec 24} {s t : State} : execCont32 g v s = .next t ↔
    Running s ∧ readBytes (containerBytes g v) s = .next t := whenRunning_eq_next

theorem execFrame_eq_next {p : List Byte} {s t : State} : execFrame p s = .next t ↔
    Running s ∧ p.length = s.cfg.payloadSize ∧ readBytes (s.cfg.m0 :: s.cfg.m1 :: p) s = .next t := by
  simp only [execFrame, whenRunning_eq_next, require_eq_next, fits_frame, State.linkCtx_payloadSize]

/-! ## The rows that classify a byte -/

theorem fits_sof {x : LinkCtx} {o n : Byte} : Instr.fits x (.sof o n) = true ↔
    x.phase = .seeking ∧ o = olderAfter x.win ∧ windowMatches x.win x.wcnt n x.m0 x.m1 = true := by simp [Instr.fits]

theorem fits_skip {x : LinkCtx} {o n : Byte} : Instr.fits x (.skip o n) = true ↔
    x.phase = .seeking ∧ (x.wcnt = 0 ∨ o = olderAfter x.win) ∧ windowMatches x.win x.wcnt n x.m0 x.m1 = false := by
  simp [Instr.fits]

theorem fits_pay {x : LinkCtx} {b : Byte} : Instr.fits x (.pay b) = true ↔
    x.phase = .reading ∧ x.cnt + 1 < x.payloadSize := by simp [Instr.fits]

theorem fits_payLast {x : LinkCtx} {b : Byte} : Instr.fits x (.payLast b) = true ↔
    x.phase = .reading ∧ x.cnt + 1 = x.payloadSize := by simp [Instr.fits]

theorem phase_eq_seeking {f : FsState} : f.phase = .seeking ↔ f = .seeking := by cases f <;> simp [FsState.phase]

theorem phase_eq_reading {f : FsState} : f.phase = .reading ↔ f = .readingPayload := by cases f <;> simp [FsState.phase]

/-- The match condition in the words of R82. -/
theorem windowMatches_iff {w : BitVec 16} {c : Nat} {b m0 m1 : Byte} :
    windowMatches w c b m0 m1 = true ↔ min (c + 1) 2 = 2 ∧ w.extractLsb' 0 8 ++ b = m0 ++ m1 := by
  rw [windowMatches, Bool.and_eq_true, decide_eq_true_eq, decide_eq_true_eq]
  rfl

/-- A row that classifies a byte does what the byte does. -/
theorem sof_eq_readByte {o n : Byte} {s t : State} (h : execSof o n s = .next t) : Running s ∧ readByte n s = .next t := by
  obtain ⟨hr, hf, rfl⟩ := execSof_eq_next.1 h
  obtain ⟨hp, -, hw⟩ := fits_sof.1 hf
  exact ⟨hr, readByte_eq_next.2 (.inl ⟨phase_eq_seeking.1 hp, hw, rfl⟩)⟩

theorem skip_eq_readByte {o n : Byte} {s t : State} (h : execSkip o n s = .next t) :
    Running s ∧ readByte n s = .next t := by
  obtain ⟨hr, hf, rfl⟩ := execSkip_eq_next.1 h
  obtain ⟨hp, -, hw⟩ := fits_skip.1 hf
  exact ⟨hr, readByte_eq_next.2 (.inr (.inl ⟨phase_eq_seeking.1 hp, hw, rfl⟩))⟩

theorem pay_eq_readByte {b : Byte} {s t : State} (h : execPay b s = .next t) : Running s ∧ readByte b s = .next t := by
  obtain ⟨hr, hf, rfl⟩ := execPay_eq_next.1 h
  obtain ⟨hp, hc⟩ := fits_pay.1 hf
  exact ⟨hr, readByte_eq_next.2 (.inr (.inr (.inl ⟨phase_eq_reading.1 hp, hc, rfl⟩)))⟩

theorem payLast_eq_readByte {b : Byte} {s t : State} (h : execPayLast b s = .next t) :
    Running s ∧ readByte b s = .next t := by
  obtain ⟨hr, hf, rfl⟩ := execPayLast_eq_next.1 h
  obtain ⟨hp, hc⟩ := fits_payLast.1 hf
  exact ⟨hr, readByte_eq_next.2 (.inr (.inr (.inr ⟨phase_eq_reading.1 hp, hc, rfl⟩)))⟩

/-! ## Processing -/

theorem fetchEnabled_iff (s : State) :
    fetchEnabled s = true ↔ s.pr.state = .idle ∧ s.iq ≠ [] ∧ s.stop = false := by
  simp [fetchEnabled]

theorem execFetch_eq_next {s t : State} : execFetch s = .next t ↔
    Running s ∧ s.pr.state = .idle ∧ s.stop = false ∧ ∃ f rest, s.iq = f :: rest ∧ t = fetchFrame f rest s := by
  simp only [execFetch, whenRunning_eq_next, require_eq_next, fetchEnabled_iff]
  cases s.iq with
  | nil => simp
  | cons f rest =>
    constructor
    · rintro ⟨hr, ⟨hi, -, hs⟩, h⟩
      cases h
      exact ⟨hr, hi, hs, f, rest, rfl, rfl⟩
    · rintro ⟨hr, hi, hs, f', rest', h, rfl⟩
      cases h
      exact ⟨hr, ⟨hi, by simp, hs⟩, rfl⟩

theorem execPush_eq_next {s t : State} : execPush s = .next t ↔
    Running s ∧ s.pr.state = .pushing ∧ s.pr.idx < s.cfg.nch ∧ t = pushBlock s := by
  simp only [execPush, whenRunning_eq_next, require_eq_next, pushEnabled, Bool.and_eq_true, decide_eq_true_eq, and_assoc,
    next_eq_next]

theorem offerBlock_of_room {s : State} {c : Nat} (h : (s.blocks c).length < s.cfg.cap c) :
    offerBlock c s = s.setBlocks c (s.blocks c ++ [s.pr.block]) := by
  rw [offerBlock, pushDrop_of_room h]

theorem offerBlock_of_full {s : State} {c : Nat} (h : s.cfg.cap c ≤ (s.blocks c).length) :
    offerBlock c s = s.raise (.channelFull c) := by
  rw [offerBlock, pushDrop_of_full h]

/-- Offering a block writes the Channels and the log, nothing else (R115, R116). -/
theorem offerBlock_frame (c : Nat) (s : State) :
    offerBlock c s = { s with ch := (offerBlock c s).ch, diag := (offerBlock c s).diag } := by
  rcases Nat.lt_or_ge (s.blocks c).length (s.cfg.cap c) with h | h
  · rw [offerBlock_of_room h]
    rfl
  · rw [offerBlock_of_full h]
    rfl

theorem execPop_eq_next {c : Nat} {s t : State} : execPop c s = .next t ↔
    Running s ∧ c < s.cfg.nch ∧ s.cfg.pbCh ≠ some c ∧ t = popChannel c s := by
  simp only [execPop, whenRunning_eq_next, require_eq_next, decide_eq_true_eq, next_eq_next]

/-! ## Playback -/

theorem execRbegin_eq_next {n : Nat} {s t : State} : execRbegin n s = .next t ↔
    Running s ∧ ∃ c, s.cfg.pbCh = some c ∧ s.pb.state = .idle ∧ t = beginRender n c s := by
  simp only [execRbegin, whenRunning_eq_next, withPlayback_eq_next, require_eq_next, decide_eq_true_eq, next_eq_next]

theorem execRpop_eq_next {s t : State} : execRpop s = .next t ↔
    Running s ∧ ∃ c, s.cfg.pbCh = some c ∧ RpopReady c s ∧ t = drainBlock c s := by
  simp only [execRpop, whenRunning_eq_next, withPlayback_eq_next, require_eq_next, rpopEnabled_iff,
    next_eq_next]

theorem execRend_eq_next {s t : State} : execRend s = .next t ↔
    Running s ∧ ∃ c, s.cfg.pbCh = some c ∧ RendReady c s ∧ t = endRender s := by
  simp only [execRend, whenRunning_eq_next, withPlayback_eq_next, require_eq_next, rendEnabled_iff,
    next_eq_next]

theorem drainBlock_of_cons {s : State} {c : Nat} {b : Block} {rest : List Block} (h : s.blocks c = b :: rest) :
    drainBlock c s = (s.setBlocks c rest).setPb
      { s.pb with acc := s.pb.acc ++ b, need := s.pb.need - 1, drained := s.pb.drained + 1 } := by
  rw [drainBlock, h]
  rfl

/-- Draining a block writes the Channels and the Playback registers, nothing else (R133). -/
theorem drainBlock_frame (c : Nat) (s : State) :
    drainBlock c s = { s with ch := (drainBlock c s).ch, pb := (drainBlock c s).pb } := by
  cases h : s.blocks c with
  | nil => rw [drainBlock, h]; rfl
  | cons b rest => rw [drainBlock_of_cons h]; rfl

/-- The end of a call writes the Playback registers and the log, nothing else (R135). -/
theorem endRender_frame (s : State) : endRender s = { s with pb := (endRender s).pb, diag := (endRender s).diag } := by
  unfold endRender
  split <;> rfl

/-- A property every block drained while `RPOP` is enabled keeps is kept by a whole drain. -/
theorem drainWhile_induct {P : State → State → Prop} (c : Nat) (refl : ∀ s, P s s)
    (trans : ∀ s u t, P s u → P u t → P s t) (block : ∀ s, RpopReady c s → P s (drainBlock c s)) :
    ∀ (k : Nat) (s : State), P s (drainWhile c k s)
  | 0, s => refl s
  | k + 1, s => by
    rw [drainWhile]
    split
    · next h =>
      exact trans s _ _ (block s ((rpopEnabled_iff c s).1 h)) (drainWhile_induct c refl trans block k (drainBlock c s))
    · exact refl s

theorem execRender_eq_next {n : Nat} {s t : State} : execRender n s = .next t ↔
    Running s ∧ ∃ c, s.cfg.pbCh = some c ∧ s.pb.state = .idle ∧
      RendReady c (drainWhile c (s.blocks c).length (beginRender n c s)) ∧
      t = endRender (drainWhile c (s.blocks c).length (beginRender n c s)) := by
  simp only [execRender, whenRunning_eq_next, withPlayback_eq_next, require_eq_next, decide_eq_true_eq, finishRender,
    rendEnabled_iff, next_eq_next]
  rfl

/-! ## System -/

theorem execStop_eq_next {s t : State} : execStop s = .next t ↔ Running s ∧ t = { s with stop := true } := by
  simp only [execStop, whenRunning_eq_next, next_eq_next]

theorem execRestart_eq_next {s t : State} : execRestart s = .next t ↔
    Running s ∧ s.fs.state = .halted ∧ t = restartReader s := by
  simp only [execRestart, whenRunning_eq_next, require_eq_next, decide_eq_true_eq, next_eq_next]

theorem execReset_eq_next {l : Bool} {s t : State} : execReset l s = .next t ↔
    s.env.cfgIn.legal = true ∧ t = State.afterReset s.env.cfgIn l s.env := by
  simp only [execReset, require_eq_next, next_eq_next]

/-! ## Which refusals leave no meaning to go on with -/

/-- Under a legal configuration with stable inputs the common condition refuses with `linkFatal` only. -/
theorem whenRunning_eq_refused {s : State} {k : Result} {q : Refusal} (hl : s.cfg.legal = true) (hs : InputsStable s)
    (h : whenRunning s k = .refused q) : q = .linkFatal ∨ k = .refused q := by
  by_cases hr : Running s
  · rw [whenRunning_of_running hr] at h
    exact .inr h
  · have hf : s.fs.state = .fatal := by
      by_contra hf
      exact hr ⟨hl, hs, hf⟩
    simp only [whenRunning, notRunning, hl, hs.1, hs.2, hf, Bool.true_eq_false, Bool.false_eq_true, ne_eq,
      not_true_eq_false, or_false, if_false, if_true] at h
    cases h
    exact .inl rfl

theorem require_eq_refused {b : Bool} {p q : Refusal} {k : Result} :
    require b p k = .refused q ↔ b = false ∧ q = p ∨ b = true ∧ k = .refused q := by
  cases b <;> simp [require, eq_comm]

theorem withPlayback_eq_refused {s : State} {k : Nat → Result} {q : Refusal} (h : withPlayback s k = .refused q) :
    q = .noPlaybackEngine ∨ ∃ c, s.cfg.pbCh = some c ∧ k c = .refused q := by
  unfold withPlayback at h
  split at h
  · cases h
    exact .inl rfl
  · next c hc => exact .inr ⟨c, hc, h⟩

/-! ## The step -/

/-- All that taking an input can do. -/
theorem runInput_eq_next {u : Input} {s t : State} (h : runInput u s = .next t) :
    (∃ c, u = .config c ∧ t = presentConfig c s) ∨ (∃ i, decode s.linkCtx u = .ok i ∧ exec i s = .next t) := by
  unfold runInput fetchInput at h
  cases u with
  | config c =>
    cases h
    exact .inl ⟨c, rfl, rfl⟩
  | _ =>
    right
    dsimp only at h
    split at h
    · next i hi =>
      split at hi
      · next j hj =>
        cases hi
        exact ⟨_, hj, h⟩
      · cases hi
    · next hi => split at hi <;> cases hi
    · cases h

theorem instr_isInternal_iff {i : Instr} : i.isInternal = true ↔ i = .fetch ∨ i = .push ∨ i = .rpop ∨ i = .rend := by
  cases i <;> simp [Instr.isInternal]

/-- The inputs that are steps of TFS itself. -/
theorem input_isInternal {u : Input} (h : u.isInternal = true) :
    ∃ w i, u = .stim w ∧ decodeStim w = .ok i ∧ i.isInternal = true := by
  cases u with
  | stim w =>
    rw [Input.isInternal] at h
    split at h
    · next i hi => exact ⟨w, i, rfl, hi, h⟩
    · cases h
  | _ => cases h

/-- The step of an internal input is that of its operation. -/
theorem runInput_of_internal {u : Input} (h : u.isInternal = true) (s : State) :
    ∃ i : Instr, i.isInternal = true ∧ runInput u s = exec i s := by
  obtain ⟨w, i, rfl, hd, hi⟩ := input_isInternal h
  have hd' : decode s.linkCtx (.stim w) = .ok i := hd
  exact ⟨i, hi, by simp only [runInput, fetchInput, hd']⟩

/-- What the free schedule presents: the free input, which is internal where the external agents do nothing more. -/
theorem freeChoice_eq_some {s : State} {u : Input} : freeChoice s = some u ↔
    u = Config.freeInput s.env.tick ∧ (s.env.outsideDone = false ∨ u.isInternal = true) := by
  simp only [freeChoice, Option.ite_none_left_eq_some, Option.some.injEq, Bool.and_eq_true, Bool.not_eq_true', not_and,
    Bool.not_eq_false, @eq_comm _ _ u]
  constructor
  · rintro ⟨h, rfl⟩
    exact ⟨rfl, (Bool.eq_false_or_eq_true s.env.outsideDone).symm.imp_right h⟩
  · rintro ⟨rfl, h⟩
    exact ⟨fun hd => h.resolve_left (by simp [hd]), rfl⟩

/-- All that a free choice can do: nothing, or what it is. -/
theorem freeStep_eq_next {u : Input} {s t : State} (h : freeStep u s = .next t) : t = s ∨ runInput u s = .next t := by
  unfold freeStep at h
  split at h
  · next hr =>
    cases h
    exact .inr hr
  · cases h
  · split at h
    · cases h
    · cases h
      exact .inl rfl

/-- All that a step can do: nothing but a tick, or an input taken from the schedule or chosen freely. -/
theorem step_eq_next {s t : State} (h : step s = .next t) :
    t = s.ticked ∨ ∃ (u : Input) (s' : State), (s' = s.ticked ∨ ∃ rest, s' = s.withScript rest) ∧
      runInput u s' = .next t := by
  unfold step at h
  split at h
  · split at h
    · exact (freeStep_eq_next h).imp_right fun hr => ⟨_, _, .inl rfl, hr⟩
    · cases h
      exact .inl rfl
  · next u rest _ =>
    split at h
    · exact .inr ⟨u, _, .inr ⟨rest, rfl⟩, h⟩
    · cases h

end Sys2Proof.Machine
end

