-- ==== Sys2Proof/Laws/Atoms.lean ====
section
/-! SUPPORT. Every operation but `RESET` is a chain of atomic changes, each one function of Machine/ under the condition it
runs in: what a claim over all instructions has to look at. -/

namespace Sys2Proof.Machine

/-- The atomic changes of the machine (R50, R66), each with the condition under which it is made. -/
inductive Atom : State → State → Prop where
  | byte (b : Byte) (s t : State) (h : readByte b s = .next t) : Atom s t
  | timeout (s t : State) (h : readTimeout s = .next t) : Atom s t
  | fetch (s : State) (f : Frame) (rest : List Frame) (hp : s.pr.state = .idle) (hq : s.iq = f :: rest) :
      Atom s (fetchFrame f rest s)
  | push (s : State) (hp : s.pr.state = .pushing) (hc : s.pr.idx < s.cfg.nch) : Atom s (pushBlock s)
  | pop (s : State) (c : Nat) (hc : c < s.cfg.nch) (hp : s.cfg.pbCh ≠ some c) : Atom s (popChannel c s)
  | begin (s : State) (n c : Nat) (hc : s.cfg.pbCh = some c) (hp : s.pb.state = .idle) :
      Atom s (beginRender n c s)
  | drain (s : State) (c : Nat) (hc : s.cfg.pbCh = some c) (hr : RpopReady c s) : Atom s (drainBlock c s)
  | finish (s : State) (c : Nat) (hc : s.cfg.pbCh = some c) (hr : RendReady c s) : Atom s (endRender s)
  | stop (s : State) : Atom s { s with stop := true }
  | restart (s : State) (hs : s.fs.state = .halted) : Atom s (restartReader s)
  | present (s : State) (c : Config) : Atom s (presentConfig c s)

/-- Draining keeps which Channel is the playback Channel. -/
theorem drainBlock_cfg (c : Nat) (s : State) : (drainBlock c s).cfg = s.cfg := by rw [drainBlock_frame]

theorem Atom.readBytes {l : List Byte} {s t : State} (h : Machine.readBytes l s = .next t) :
    Relation.ReflTransGen Atom s t :=
  readBytes_induct (fun _ => .refl) (fun _ _ _ => .trans) (fun b s t h => .single (.byte b s t h)) l s t h

theorem Atom.drainWhile (c k : Nat) (s : State) (hc : s.cfg.pbCh = some c) :
    Relation.ReflTransGen Atom s (Machine.drainWhile c k s) ∧ (Machine.drainWhile c k s).cfg = s.cfg := by
  have h := drainWhile_induct (P := fun s t => s.cfg.pbCh = some c → Relation.ReflTransGen Atom s t ∧ t.cfg = s.cfg) c
    (fun _ _ => ⟨.refl, rfl⟩)
    (fun s u t h1 h2 h => by
      obtain ⟨a1, e1⟩ := h1 h
      obtain ⟨a2, e2⟩ := h2 (by rw [e1, h])
      exact ⟨a1.trans a2, e2.trans e1⟩)
    (fun s hr h => ⟨.single (.drain s c h hr), drainBlock_cfg c s⟩) k s
  exact h hc

/-- All that an operation but `RESET` can do. -/
theorem exec_atoms {i : Instr} {s t : State} (h : exec i s = .next t) (hi : ∀ l, i ≠ .reset l) :
    Relation.ReflTransGen Atom s t := by
  cases i with
  | rxb b => exact .single (.byte b s t (execRxb_eq_next.1 h).2)
  | tmo => exact .single (.timeout s t (execTmo_eq_next.1 h).2)
  | fetch =>
    obtain ⟨-, hp, -, f, rest, hq, rfl⟩ := execFetch_eq_next.1 h
    exact .single (.fetch s f rest hp hq)
  | push =>
    obtain ⟨-, hp, hc, rfl⟩ := execPush_eq_next.1 h
    exact .single (.push s hp hc)
  | pop c =>
    obtain ⟨-, hc, hp, rfl⟩ := execPop_eq_next.1 h
    exact .single (.pop s c hc hp)
  | render n =>
    obtain ⟨-, c, hc, hp, hr, rfl⟩ := execRender_eq_next.1 h
    obtain ⟨a, e⟩ := Atom.drainWhile c (s.blocks c).length (beginRender n c s) hc
    exact (Relation.ReflTransGen.single (.begin s n c hc hp)).trans (a.trans (.single (.finish _ c (by rw [e]; exact hc) hr)))
  | rbegin n =>
    obtain ⟨-, c, hc, hp, rfl⟩ := execRbegin_eq_next.1 h
    exact .single (.begin s n c hc hp)
  | rpop =>
    obtain ⟨-, c, hc, hr, rfl⟩ := execRpop_eq_next.1 h
    exact .single (.drain s c hc hr)
  | rend =>
    obtain ⟨-, c, hc, hr, rfl⟩ := execRend_eq_next.1 h
    exact .single (.finish s c hc hr)
  | stop =>
    obtain ⟨-, rfl⟩ := execStop_eq_next.1 h
    exact .single (.stop s)
  | restart =>
    obtain ⟨-, hs, rfl⟩ := execRestart_eq_next.1 h
    exact .single (.restart s hs)
  | reset l => exact absurd rfl (hi l)
  | sof o n => exact .single (.byte n s t ((sof_eq_readByte h).2))
  | skip o n => exact .single (.byte n s t ((skip_eq_readByte h).2))
  | pay b => exact .single (.byte b s t ((pay_eq_readByte h).2))
  | payLast b => exact .single (.byte b s t ((payLast_eq_readByte h).2))
  | cont32 g v => exact Atom.readBytes (execCont32_eq_next.1 h).2
  | samp32 v =>
    cases h
    exact .refl
  | frame p => exact Atom.readBytes (execFrame_eq_next.1 h).2.2
  | gainq g =>
    cases h
    exact .single (.present s _)

/-- A property that every atomic change and every reset keeps is kept by every step. -/
theorem step_keeps {P : State → Prop} (atom : ∀ s t, Atom s t → P s → P t)
    (reset : ∀ (s : State) (l : Bool), s.env.cfgIn.legal = true → P (State.afterReset s.env.cfgIn l s.env))
    (outside : ∀ (s : State) (e : Env), P s → P { s with env := e }) {s t : State} (hs : P s) (h : step s = .next t) : P t := by
  have chain : ∀ {s t}, Relation.ReflTransGen Atom s t → P s → P t := fun h hs => by
    induction h with
    | refl => exact hs
    | tail _ ha ih => exact atom _ _ ha ih
  rcases step_eq_next h with rfl | ⟨u, s', hs', hr⟩
  · exact outside s _ hs
  · have hs'' : P s' := by
      rcases hs' with rfl | ⟨rest, rfl⟩
      · exact outside s _ hs
      · exact outside s _ hs
    rcases runInput_eq_next hr with ⟨c, -, rfl⟩ | ⟨i, -, hi⟩
    · exact outside s' _ hs''
    · by_cases hres : ∀ l, i ≠ .reset l
      · exact chain (exec_atoms hi hres) hs''
      · obtain ⟨l, rfl⟩ := not_forall_not.1 hres
        obtain ⟨hl, rfl⟩ := execReset_eq_next.1 hi
        exact reset s' l hl

end Sys2Proof.Machine
end

