-- ==== Sys2Proof/Laws/PerInstr.lean ====
section
/-! SUPPORT. Statements made for all instructions, one lemma per constructor. -/

namespace Sys2Proof.Laws.EncodingFormat

/-- The input is a word, a byte or a sequence of the format (spec/30_encoding.md R61 to R65, R68). A class of a received byte
is presented by the byte itself, the newer one of its window (R67). -/
def OfFormat : Format → Input → Prop
  | .stim32, u => ∃ w, u = .stim w
  | .win16, u => ∃ b, u = .link b
  | .byte8, u => ∃ b, u = .link b
  | .cont32, u => ∃ w, u = .container w
  | .samp32, u => ∃ v : BitVec 24, u = .sample (v.signExtend 32)
  | .frame, u => ∃ m0 m1 payload, u = .frame (m0 :: m1 :: payload)
  | .gainq, u => ∃ w, u = .gain w

/-- Every instruction is presented in the format the opcode table gives its row, in every link context. -/
def Statement (i : Instr) : Prop := ∀ x : LinkCtx, OfFormat i.format (encode x i)

theorem rxb (b : Byte) : Statement (.rxb b) := fun _ => ⟨_, rfl⟩
theorem tmo : Statement .tmo := fun _ => ⟨_, rfl⟩
theorem fetch : Statement .fetch := fun _ => ⟨_, rfl⟩
theorem push : Statement .push := fun _ => ⟨_, rfl⟩
theorem pop (c : Nat) : Statement (.pop c) := fun _ => ⟨_, rfl⟩
theorem render (n : Nat) : Statement (.render n) := fun _ => ⟨_, rfl⟩
theorem rbegin (n : Nat) : Statement (.rbegin n) := fun _ => ⟨_, rfl⟩
theorem rpop : Statement .rpop := fun _ => ⟨_, rfl⟩
theorem rend : Statement .rend := fun _ => ⟨_, rfl⟩
theorem stop : Statement .stop := fun _ => ⟨_, rfl⟩
theorem restart : Statement .restart := fun _ => ⟨_, rfl⟩
theorem reset (l : Bool) : Statement (.reset l) := fun _ => ⟨_, rfl⟩
theorem sof (older newer : Byte) : Statement (.sof older newer) := fun _ => ⟨_, rfl⟩
theorem skip (older newer : Byte) : Statement (.skip older newer) := fun _ => ⟨_, rfl⟩
theorem pay (b : Byte) : Statement (.pay b) := fun _ => ⟨_, rfl⟩
theorem payLast (b : Byte) : Statement (.payLast b) := fun _ => ⟨_, rfl⟩
theorem cont32 (g : Byte) (v : BitVec 24) : Statement (.cont32 g v) := fun _ => ⟨_, rfl⟩
theorem samp32 (v : BitVec 24) : Statement (.samp32 v) := fun _ => ⟨_, rfl⟩
theorem frame (payload : List Byte) : Statement (.frame payload) := fun _ => ⟨_, _, _, rfl⟩
theorem gainq (g : Nat) : Statement (.gainq g) := fun _ => ⟨_, rfl⟩

end Sys2Proof.Laws.EncodingFormat
end

