-- ==== Sys2Proof/Tests/Slice0.lean ====
section
/-! SUPPORT. Tests. Expected values are those of spec/95_test_vectors.md (the vector is named), of the encoding tables of
spec/30_encoding.md, or hand calculation from the rule named. `witness_<statement>` shows that the hypotheses of a statement
can be met. -/

namespace Sys2Proof.Tests

open Sys2Proof.Machine

/-! ## Small states -/

/-- CFG-S of 95_test_vectors.md, with `K = [2,2]` and `INGRESS_DEPTH = 2`. -/
def cfgS : Config := { Config.default with payloadSize := 8, capacity := [2, 2], ingressDepth := 2 }

/-- The reset state under a configuration, with that configuration still presented. -/
def fresh (c : Config) : State := State.afterReset c true (Env.start c)

/-- The reset state under CFG-S. -/
def s0 : State := fresh cfgS

/-- The Reader in a given place. -/
def reader (f : FsState) (win : BitVec 16) (wcnt cnt : Nat) : State :=
  { s0 with fs := { state := f, win := win, wcnt := wcnt, cnt := cnt, buf := [1, 2, 3, 4, 5, 6, 7, 0] } }

/-- An `M0` has arrived. -/
def sMark : State := reader .seeking 0x00AA 1 0

/-- Two payload bytes before the end of a payload read, and one. -/
def sPay : State := reader .readingPayload 0 0 6
def sLast : State := reader .readingPayload 0 0 7

/-- The same with the ingress queue full, and with the shutdown flag set. -/
def sFull : State := { sLast with iq := [[1, 2, 3, 4, 5, 6, 7, 8], [8, 7, 6, 5, 4, 3, 2, 1]] }
def sLastStop : State := { sLast with stop := true }

/-- A run that is over: the Reader has stopped, and the external agents do nothing more. -/
def sOver : State := { reader .stopped 0 0 0 with stop := true, env := { s0.env with outsideDone := true } }

/-- The payload `01 00 00 00 02 00 00 00` of vector Q1. -/
def frameQ1 : Frame := [1, 0, 0, 0, 2, 0, 0, 0]

/-- A Frame waits. -/
def sFrame : State := { s0 with iq := [frameQ1] }

/-- The fan-out of a block, at a Channel, with the Channels' contents and drop counters given. -/
def fanning (b : Block) (idx : Nat) (ch : List Chan) : State :=
  { s0 with pr := { state := .pushing, block := b, idx := idx }, ch := ch }

def chan (blocks : List Block) : Chan := { blocks := blocks, dropCnt := 0 }

/-- Playback with a configuration, an accumulator and a content of the playback Channel. -/
def playing (c : Config) (acc : List Sample) (q : List Block) : State :=
  { fresh c with ch := [chan q, chan []], pb := { (fresh c).pb with acc := acc } }

/-- The same with a call in progress. -/
def draining (c : Config) (acc : List Sample) (q : List Block) (req need drained : Nat) : State :=
  { playing c acc q with
    pb := { (fresh c).pb with state := .draining, acc := acc, req := req, need := need, drained := drained } }

/-- CFG-S with a gain, with `ACC_CAP`, with a `DRAIN_MODE`, without a Playback Engine. -/
def cfgGain (g : Nat) : Config := { cfgS with gain := g }
def cfgCap (a : Nat) : Config := { cfgS with accCap := some a }
def cfgMode (m : DrainMode) : Config := { cfgS with drainMode := m }
def cfgNoPb : Config := { cfgS with pbCh := none }

/-- The next state of an operation, where there is one. -/
def after (r : Result) : Option State :=
  match r with
  | .next s => some s
  | .fault _ => none
  | .refused _ => none

/-- The refusal of an operation, where it is refused. -/
def why (r : Result) : Option Refusal :=
  match r with
  | .next _ => none
  | .fault _ => none
  | .refused q => some q

/-- One observation of the next state. -/
def see {α : Type} (r : Result) (f : State → α) : Option α := (after r).map f

/-! ## Well-formedness: an ill-formed term for each check -/

theorem test_wellFormed_pop : (Instr.pop 255).WellFormed = true ∧ (Instr.pop 256).WellFormed = false := by decide
theorem test_wellFormed_render : (Instr.render 65535).WellFormed = true ∧ (Instr.render 65536).WellFormed = false := by
  decide
theorem test_wellFormed_rbegin : (Instr.rbegin 65535).WellFormed = true ∧ (Instr.rbegin 65536).WellFormed = false := by
  decide
theorem test_wellFormed_frame_empty : (Instr.frame []).WellFormed = false := by decide
theorem test_wellFormed_frame_length :
    (Instr.frame [1, 2, 3, 4, 5, 6]).WellFormed = false ∧ (Instr.frame [1, 2, 3, 4]).WellFormed = true := by decide

/-! ## Decoding: one word for each constructor, written out from R66 and R68 or from the format -/

theorem test_decode_rxb : decodeStim 0x010000AA = .ok (.rxb 0xAA) := by decide
theorem test_decode_tmo : decodeStim 0x02000000 = .ok .tmo := by decide
theorem test_decode_fetch : decodeStim 0x10000000 = .ok .fetch := by decide
theorem test_decode_push : decodeStim 0x11000000 = .ok .push := by decide
theorem test_decode_pop : decodeStim 0x20FF0000 = .ok (.pop 255) := by decide
theorem test_decode_render : decodeStim 0x2100FF03 = .ok (.render 0xFF03) := by decide
theorem test_decode_rbegin : decodeStim 0x22008004 = .ok (.rbegin 0x8004) := by decide
theorem test_decode_rpop : decodeStim 0x23000000 = .ok .rpop := by decide
theorem test_decode_rend : decodeStim 0x24000000 = .ok .rend := by decide
theorem test_decode_stop : decodeStim 0x30000000 = .ok .stop := by decide
theorem test_decode_restart : decodeStim 0x31000000 = .ok .restart := by decide
theorem test_decode_reset : decodeStim 0x3F000001 = .ok (.reset true) ∧ decodeStim 0x3F000000 = .ok (.reset false) := by
  decide
theorem test_decode_sof : decode sMark.linkCtx (.link 0x55) = .ok (.sof 0xAA 0x55) := by decide
theorem test_decode_skip : decode sMark.linkCtx (.link 0xAA) = .ok (.skip 0xAA 0xAA) := by decide
theorem test_decode_pay : decode sPay.linkCtx (.link 0xAA) = .ok (.pay 0xAA) := by decide
theorem test_decode_payLast : decode sLast.linkCtx (.link 0x55) = .ok (.payLast 0x55) := by decide
theorem test_decode_cont32 : decode s0.linkCtx (.container 0xAB800000) = .ok (.cont32 0xAB 0x800000) := by decide
theorem test_decode_samp32 : decode s0.linkCtx (.sample 0xFF800000) = .ok (.samp32 0x800000) := by decide
theorem test_decode_not_samp32 : decode s0.linkCtx (.sample 0x00800000) = .reject (.notASample 0x00800000) := by decide
theorem test_decode_frame :
    decode s0.linkCtx (.frame [0xAA, 0x55, 1, 2, 3, 4, 5, 6, 7, 8]) = .ok (.frame [1, 2, 3, 4, 5, 6, 7, 8]) ∧
      decode s0.linkCtx (.frame [0xAA, 0x55, 1, 2, 3, 4]) = .reject .notAFrame := by decide
/-- R65: a gain has `GW` bits, 16 by default. -/
theorem test_decode_gainq : decode s0.linkCtx (.gain 0x0180) = .ok (.gainq 0x0180) ∧
    decode s0.linkCtx (.gain 65535) = .ok (.gainq 65535) ∧
    decode s0.linkCtx (.gain 65536) = .reject (.notAGain 65536) ∧
    decode (fresh { cfgS with gw := 17 }).linkCtx (.gain 65536) = .ok (.gainq 65536) := by decide
/-- R220: the ports carry what a stimulus word cannot hold (log entry 29). -/
theorem test_decode_ports : decode s0.linkCtx (.renderReq 65536) = .ok (.rbegin 65536) ∧
    decode s0.linkCtx (.renderCall 65536) = .ok (.render 65536) ∧ decode s0.linkCtx (.popReq 256) = .ok (.pop 256) := by
  decide

/-- R71: a reserved `op`, and a must-be-zero bit that is not zero, in each field. -/
theorem test_reserved_words : decodeStim 0x12000000 = .reject (.reservedWord 0x12000000) ∧
    decodeStim 0x01010000 = .reject (.reservedWord 0x01010000) ∧
    decodeStim 0x01000100 = .reject (.reservedWord 0x01000100) ∧
    decodeStim 0x20010001 = .reject (.reservedWord 0x20010001) ∧
    decodeStim 0x3F000002 = .reject (.reservedWord 0x3F000002) := by decide

/-- The host's numbering of the table's rows (log entry 26). -/
theorem test_decodeTableWord : decodeTableWord 32 0x10000000 = some .fetch ∧
    decodeTableWord 16 0xAA55 = some (.sof 0xAA 0x55) ∧ decodeTableWord 16 0 = some (.skip 0 0) ∧
    decodeTableWord 8 7 = some (.pay 7) ∧ decodeTableWord 24 5 = some (.samp32 5) := by decide

theorem test_withFetchWord_stim :
    see (step (State.reset.withFetchWord 32 0x30000000)) (fun t => (t.stop, t.env.script)) = some (true, []) := by decide
theorem test_withFetchWord_sof :
    see (step (State.reset.withFetchWord 16 0xAA55)) (fun t => t.fs.state) = some .readingPayload := by decide

/-! ## Frame Synchronizer -/

/-- S5: one byte after reset never matches, whatever the window held. -/
theorem test_rxb_first_byte : see (exec (.rxb 0x55) s0) (fun t => (t.fs.state, t.fs.wcnt)) = some (.seeking, 1) := by
  decide
/-- S2, third byte: the window slides by one byte. -/
theorem test_rxb_window_slides :
    see (exec (.rxb 0xAA) (reader .seeking 0x00AA 2 0)) (fun t => (t.fs.state, t.fs.win, t.fs.wcnt)) =
      some (.seeking, 0xAAAA, 2) := by decide
/-- S1, second byte. -/
theorem test_sof : see (exec (.sof 0xAA 0x55) sMark) (fun t => (t.fs.state, t.fs.cnt, t.fs.wcnt)) =
    some (.readingPayload, 0, 0) := by decide
/-- R12: with an empty window the older byte of the row means nothing. -/
theorem test_skip_empty_window : see (exec (.skip 0xC3 0x55) s0) (fun t => (t.fs.state, t.fs.wcnt)) = some (.seeking, 1) := by
  decide
/-- S3, last byte. -/
theorem test_skip : see (exec (.skip 0x00 0x55) (reader .seeking 0xAA00 2 0)) (fun t => (t.fs.state, t.fs.win)) =
    some (.seeking, 0x0055) := by decide
/-- S7, a payload byte equal to a marker byte is data. -/
theorem test_pay : see (exec (.pay 0xAA) sPay) (fun t => (t.fs.state, t.fs.cnt, t.fs.buf)) =
    some (.readingPayload, 7, [1, 2, 3, 4, 5, 6, 0xAA, 0]) := by decide
/-- S6, last byte. -/
theorem test_payLast : see (exec (.payLast 8) sLast) (fun t => (t.iq, t.fs.state, t.fs.wcnt, t.fs.cnt, t.diag)) =
    some ([[1, 2, 3, 4, 5, 6, 7, 8]], .seeking, 0, 0, []) := by decide
/-- As S19, with `INGRESS_DEPTH = 2`: the arriving Frame is dropped, the older ones stay. -/
theorem test_payLast_full : see (exec (.payLast 9) sFull) (fun t => (t.iq, t.iqDropCnt, t.diag, t.fs.state)) =
    some (sFull.iq, 1, [.ingressFull], .seeking) := by decide
/-- S8: the three bytes are nowhere but in the log. -/
theorem test_tmo_payload :
    see (exec .tmo { sPay with fs := { sPay.fs with cnt := 3, buf := [9, 9, 9, 0, 0, 0, 0, 0] } })
      (fun t => (t.diag, t.iq, t.fs.state, t.fs.wcnt)) = some ([.frameCorrupt [9, 9, 9] 3], [], .seeking, 0) := by decide
/-- S11, second operation. -/
theorem test_tmo_seeking : see (exec .tmo sMark) (fun t => (t.diag, t.fs.state, t.fs.wcnt)) =
    some ([.linkTimeout], .halted, 0) := by decide
/-- S7 as one Frame on the wire. -/
theorem test_frame :
    see (exec (.frame [0xAA, 0x55, 0xAA, 0x55, 0xAA, 0x55, 0xAA, 0x55]) s0) (fun t => (t.iq, t.fs.state)) =
      some ([[0xAA, 0x55, 0xAA, 0x55, 0xAA, 0x55, 0xAA, 0x55]], .seeking) := by decide
/-- R62: the first byte on the wire is bits 7:0. -/
theorem test_cont32 : see (exec (.cont32 0xAB 0x800001) (reader .readingPayload 0 0 0)) (fun t => (t.fs.buf, t.fs.cnt)) =
    some ([0x01, 0x00, 0x80, 0xAB, 5, 6, 7, 0], 4) := by decide

/-! ## Sample Decoder -/

/-- D1 to D4 and D7, D9. -/
theorem test_correct_vectors :
    (correctBlock [0x00FFFFFF, 0x00000001, 0xAB800000, 0x7F7FFFFF, 0x807FFFFF, 0xFFFFFFFF]).map BitVec.toInt =
      [-1, 1, -8388608, 8388607, 8388607, -1] := by decide
/-- The `decode` vector of 95_test_vectors.md 2.2. -/
theorem test_decodePayload : decodePayload [0xFF, 0xFF, 0xFF, 0x00, 0x00, 0x00, 0x80, 0xAB] = [0x00FFFFFF, 0xAB800000] := by
  decide

/-! ## Queues and fan-out -/

/-- Q1. -/
theorem test_fetch : see (exec .fetch sFrame) (fun t => (t.iq, t.pr)) =
    some ([], { state := .pushing, block := [1, 2], idx := 0 }) := by decide
/-- Q10: with no Channel the block is discarded. -/
theorem test_fetch_no_channel :
    see (exec .fetch { fresh { cfgNoPb with capacity := [] } with iq := [frameQ1] }) (fun t => (t.iq, t.pr.state)) =
      some ([], .idle) := by decide
/-- Q4 (with `K = [1,2]`, after Q3). -/
theorem test_push : see (exec .push (fanning [3, 4] 1 [chan [[1, 2]], chan [[1, 2]]])) (fun t => (t.ch, t.pr.state)) =
    some ([chan [[1, 2]], chan [[1, 2], [3, 4]]], .idle) := by decide
/-- Q12: a counter of 2 bits wraps. -/
theorem test_push_wraps :
    see (exec .push { fresh { cfgS with cntW := 2, capacity := [1, 2] } with
        pr := { state := .pushing, block := [3, 4], idx := 0 }, ch := [{ blocks := [[1, 2]], dropCnt := 3 }, chan []] })
      (fun t => (t.dropCnt 0, t.diag, t.pr.idx)) = some (0, [.channelFull 0], 1) := by decide
/-- Q5, first operation; the third answers empty. -/
theorem test_pop : see (exec (.pop 1) { s0 with ch := [chan [], chan [[1, 2], [3, 4]]] }) (fun t => (t.popRsp, t.ch)) =
    some (some { channel := 1, block := some [1, 2] }, [chan [], chan [[3, 4]]]) := by decide
theorem test_pop_empty : see (exec (.pop 1) s0) (fun t => (t.popRsp, t.diag)) =
    some (some { channel := 1, block := none }, []) := by decide

/-! ## Playback -/

/-- B11. -/
theorem test_rbegin : see (exec (.rbegin 2) (playing cfgS [] [[1, 2], [3, 4]])) (fun t => (t.pb.req, t.pb.need, t.pb.state)) =
    some (2, 2, .draining) := by decide
/-- R5: with `NW = 17` the port brings a request of 17 bits. -/
theorem test_wide_request :
    see (step ((fresh { cfgS with nw := 17 }).placeInput (.renderReq 65536))) (fun t => (t.pb.req, t.pb.state)) =
      some (65536, .draining) := by decide
/-- A request that `NW` bits cannot hold runs; the request taken over is free (log entry 13). -/
theorem test_too_wide_request : see (exec (.rbegin 65536) (playing cfgS [] [[1, 2]])) (fun t => (t.pb.need, t.pb.state)) =
    some (1, .draining) := by decide
/-- B12, first and last operation. -/
theorem test_rpop : see (exec .rpop (draining cfgS [] [[1, 2], [3, 4]] 2 2 0)) (fun t => (t.pb.acc, t.pb.need, t.blocks 0)) =
    some ([1, 2], 1, [[3, 4]]) := by decide
theorem test_rend : see (exec .rend (draining cfgS [1, 2, 3, 4] [] 2 0 2)) (fun t => (t.pb.out, t.pb.acc, t.pb.state)) =
    some ([1, 2], [3, 4], .idle) := by decide
/-- B13: `REND` is enabled because `RPOP` is blocked. -/
theorem test_rend_blocked : see (exec .rend (draining (cfgCap 4) [1, 2, 3] [[4, 5]] 2 1 0))
    (fun t => (t.pb.out, t.pb.acc, t.blocks 0)) = some ([1, 2], [3], [[4, 5]]) := by decide
/-- B3. -/
theorem test_render_underrun : see (exec (.render 3) (playing cfgS [7] []))
    (fun t => (t.pb.out, t.pb.acc, t.pb.underrunCnt, t.diag, t.pb.starved)) =
      some ([7, 0, 0], [], 1, [.playbackUnderrun 1 3], true) := by decide
/-- B7. -/
theorem test_render_gain : see (exec (.render 3) (playing (cfgGain 0x0200) [] [[-1, -8388608], [1, 8388607]]))
    (fun t => (t.pb.out, t.pb.acc, t.blocks 0)) = some ([-2, -8388608, 2], [8388607], []) := by decide
/-- G2, G7, G11, G14, G18, G22 and G15. -/
theorem test_gainclip_vectors : (gainclip (cfgGain 0x0200) 8388607).toInt = 8388607 ∧
    (gainclip (cfgGain 0x0180) (-3)).toInt = -4 ∧ (gainclip (cfgGain 0x0080) (-1)).toInt = 0 ∧
    (gainclip (cfgGain 0x0200) 4194303).toInt = 8388606 ∧ (gainclip (cfgGain 0xFFFF) 8388607).toInt = 8388607 ∧
    (gainclip (cfgGain 0x0155) (-7)).toInt = -9 ∧ (gainclip (cfgGain 0x0200) (-4194304)).toInt = -8388608 := by decide
/-- R47: a read has no side effect. -/
theorem test_samp32 : see (exec (.samp32 5) sFull) (fun t => decide (t = sFull)) = some true := by decide

/-! ## System operations -/

/-- Y1. -/
theorem test_stop : see (exec .stop sMark) (fun t => decide (t = { sMark with stop := true })) = some true := by decide
/-- Y3, and S15: a restart with the flag set. -/
theorem test_restart : see (exec .restart (reader .halted 0xAAAA 0 0)) (fun t => (t.fs.state, t.fs.wcnt)) =
    some (.seeking, 0) := by decide
theorem test_restart_stop : see (exec .restart { reader .halted 0 0 0 with stop := true }) (fun t => t.fs.state) =
    some .stopped := by decide
/-- Y4, and S18. -/
theorem test_reset : see (exec (.reset true) { sFull with diag := [.linkTimeout], stop := true })
    (fun t => decide (t = s0)) = some true := by decide
/-- V4: configuration inputs changed and put back are changed, until the next reset. -/
theorem test_changed_and_put_back :
    why (exec (.rxb 0) (presentConfig cfgS (presentConfig (cfgGain 0) s0))) = some .configChanged ∧
    see (exec (.reset true) (presentConfig cfgS (presentConfig (cfgGain 0) s0))) (fun t => decide (t = s0)) = some true := by
  decide
theorem test_reset_link_not_ok : see (exec (.reset false) sFull) (fun t => t.fs.state) = some .fatal := by decide
/-- R65: factor 1.5 is presented, and not latched before a reset. -/
theorem test_gainq : see (exec (.gainq 0x0180) s0) (fun t => (t.env.cfgIn.gain, t.cfg.gain)) = some (0x0180, 0x0100) := by
  decide

/-! ## Scripts and status outputs -/

/-- R74, with the words of program P1 (95_test_vectors.md section 3). -/
theorem test_script_words : scriptOf s0.linkCtx (opsMark cfgS ++ opsProcess cfgS) =
    [.stim 0x010000AA, .stim 0x01000055, .stim 0x10000000, .stim 0x11000000, .stim 0x11000000] := by decide

/-- R30. -/
theorem test_status : sFull.status.iqLen = 2 ∧ sFull.status.fsState = .readingPayload ∧ sFull.status.chLen = [0, 0] := by
  decide

/-! ## Witnesses: the hypotheses of each statement can be met

One theorem for each statement with hypotheses, one conjunct for each clause, at a boundary of its range where it has one. -/

theorem running_s0 : Running s0 := by decide
theorem running_sMark : Running sMark := by decide
theorem running_sPay : Running sPay := by decide
theorem running_sLast : Running sLast := by decide

theorem witness_DecodeOfEncodeIsIdentity : (Instr.pop 255).WellFormed = true ∧ (Instr.pop 255).fits s0.linkCtx = true ∧
    (Instr.render 65535).WellFormed = true ∧ (Instr.sof 0xAA 0x55).fits sMark.linkCtx = true ∧
    (Instr.skip 0xAA 0xAA).fits sMark.linkCtx = true ∧
    ((Instr.skip 0xC3 0x55).fits s0.linkCtx = true ∧ s0.linkCtx.wcnt = 0) ∧
    (Instr.gainq 65535).fits s0.linkCtx = true ∧ (Instr.pay 0).fits sPay.linkCtx = true ∧
    (Instr.payLast 0).fits sLast.linkCtx = true ∧ (Instr.frame frameQ1).fits s0.linkCtx = true ∧
    (Instr.frame frameQ1).WellFormed = true := by decide

theorem witness_StimulusWordHasOneMeaning : decodeStim 0x2100FFFF = .ok (.render 65535) := by decide

theorem witness_StepRunsDecodedInstruction :
    (s0.placeInput (.link 0xAA)).env.script = .link 0xAA :: [] ∧ (∀ v ∈ [Input.link 0xAA], v.admissible = true) ∧
      decode (s0.placeInput (.link 0xAA)).linkCtx (.link 0xAA) = .ok (.skip 0 0xAA) ∧
    (s0.placeInput (.config cfgS)).env.script = .config cfgS :: [] ∧ (Input.config cfgS).admissible = true ∧
    (s0.placeInput (.gain 65536)).env.script = .gain 65536 :: [] ∧ (Input.gain 65536).admissible = true ∧
    decode (s0.placeInput (.gain 65536)).linkCtx (.gain 65536) = .reject (.notAGain 65536) ∧
    decode s0.linkCtx (.sample 0x00800000) = .reject (.notASample 0x00800000) ∧
    decode s0.linkCtx (.frame []) = .reject .notAFrame := by decide

/-- The free input is opaque: at every state it meets one of the alternatives, and each is met by some input. -/
theorem witness_FreeStepRunsWhatIsEnabled :
    (s0.env.script = [] ∧ s0.cfg.legal = true ∧ InputsStable s0 ∧ s0.env.outsideDone = false) ∧
    (sOver.env.script = [] ∧ sOver.env.outsideDone = true) ∧
    ((Config.freeInput sOver.env.tick).isInternal = true ∨ (Config.freeInput sOver.env.tick).isInternal = false) ∧
    ((Input.stim 0x10000000).isInternal = true ∧ (Input.stim 0x30000000).isInternal = false) ∧
    ((∃ t, runInput (Config.freeInput s0.env.tick) s0.ticked = .next t) ∨
      ∃ q, runInput (Config.freeInput s0.env.tick) s0.ticked = .refused q) ∧
    (after (runInput (.link 0) s0.ticked)).isSome = true ∧
    why (runInput (.stim 0x31000000) s0.ticked) = some .notHalted ∧
    why (runInput (.link 0) (presentConfig (cfgGain 0) s0).ticked) = some .configChanged ∧
    why (runInput (.link 0) (fresh { cfgS with payloadSize := 510 }).ticked) = some .illegalConfig := by
  refine ⟨by decide, by decide, Bool.eq_false_or_eq_true _, by decide, ?_, by decide, by decide, by decide, by decide⟩
  cases runInput (Config.freeInput s0.env.tick) s0.ticked with
  | next t => exact .inl ⟨t, rfl⟩
  | fault f => cases f
  | refused q => exact .inr ⟨q, rfl⟩

theorem witness_ReservedWordRefusesWholeScript :
    Input.stim 0x12000000 ∈ (s0.withScript [.link 0xAA, .stim 0x12000000]).env.script ∧
      decodeStim 0x12000000 = .reject (.reservedWord 0x12000000) := by decide

theorem witness_ReceivedByteIsDecodedByState :
    (Running sMark ∧ sMark.fs.state = .seeking ∧ min (sMark.fs.wcnt + 1) 2 = 2 ∧
      sMark.fs.win.extractLsb' 0 8 ++ (0x55 : Byte) = sMark.cfg.m0 ++ sMark.cfg.m1) ∧
    (Running s0 ∧ s0.fs.state = .seeking ∧ ¬ min (s0.fs.wcnt + 1) 2 = 2) ∧
    (Running sPay ∧ sPay.fs.state = .readingPayload ∧ sPay.fs.cnt + 1 < sPay.cfg.payloadSize) ∧
    (Running sLast ∧ sLast.fs.state = .readingPayload ∧ sLast.fs.cnt + 1 = sLast.cfg.payloadSize) ∧
    (reader .halted 0 0 0).fs.state = .halted ∧ (reader .stopped 0 0 0).fs.state = .stopped ∧
    (reader .fatal 0 0 0).fs.state = .fatal ∧ sLast.iq.length < sLast.cfg.ingressDepth ∧
    (Running sFull ∧ sFull.fs.state = .readingPayload ∧ sFull.fs.cnt + 1 = sFull.cfg.payloadSize ∧
      sFull.cfg.ingressDepth ≤ sFull.iq.length) := by decide

theorem witness_MarkerStartsPayloadRead : Running sMark ∧ sMark.fs.state = .seeking ∧ 1 ≤ sMark.fs.wcnt ∧
    sMark.fs.win.extractLsb' 0 8 ++ (0x55 : Byte) = sMark.cfg.m0 ++ sMark.cfg.m1 := by decide

theorem witness_SearchByteSlidesWindow : Running sMark ∧ sMark.fs.state = .seeking ∧
    ¬ (min (sMark.fs.wcnt + 1) 2 = 2 ∧ sMark.fs.win.extractLsb' 0 8 ++ (0xAA : Byte) = sMark.cfg.m0 ++ sMark.cfg.m1) ∧
    (Running s0 ∧ s0.fs.state = .seeking ∧ s0.fs.wcnt = 0) := by
  decide

theorem witness_EmptyWindowMatchesNothing : Running s0 ∧ s0.fs.state = .seeking ∧ s0.fs.wcnt = 0 := by decide

theorem witness_PayloadByteIsStored : Running sPay ∧ sPay.fs.state = .readingPayload ∧
    sPay.fs.cnt + 1 < sPay.cfg.payloadSize := by decide

theorem witness_LastPayloadByteEmitsFrame : Running sLast ∧ sLast.fs.state = .readingPayload ∧
    sLast.fs.cnt + 1 = sLast.cfg.payloadSize ∧ sLast.iq.length < sLast.cfg.ingressDepth := by decide

theorem witness_FullIngressQueueDropsFrame : Running sFull ∧ sFull.fs.state = .readingPayload ∧
    sFull.fs.cnt + 1 = sFull.cfg.payloadSize ∧ sFull.cfg.ingressDepth ≤ sFull.iq.length := by decide

theorem witness_TimeoutReportsAndEndsTheIteration : (Running sMark ∧ sMark.fs.state = .seeking) ∧
    Running sPay ∧ sPay.fs.state = .readingPayload := by decide

theorem witness_LinkRowsRefusedWhereTheyDoNotApply :
    (Running (reader .halted 0 0 0) ∧ (reader .halted 0 0 0).fs.state = .halted) ∧
    (Running (reader .stopped 0 0 0) ∧ (reader .stopped 0 0 0).fs.state = .stopped) ∧
    (Running (reader .readingPayload 0 0 8) ∧ 8 ≤ (reader .readingPayload 0 0 8).fs.cnt) ∧
    (Instr.sof 0xAA 0x55).fits s0.linkCtx = false ∧ (Instr.pay 0).fits sLast.linkCtx = false ∧
    (Instr.frame [1, 2, 3, 4]).fits s0.linkCtx = false := by decide

theorem witness_WireFormatsAreTheirBytes : frameQ1.length = s0.cfg.payloadSize := by decide

theorem witness_ContainerIsStoredLittleEndian : Running (reader .readingPayload 0 0 3) ∧
    (reader .readingPayload 0 0 3).fs.state = .readingPayload ∧
    (reader .readingPayload 0 0 3).fs.cnt + 4 < (reader .readingPayload 0 0 3).cfg.payloadSize := by decide

theorem witness_FrameOnWireReachesIngressQueue :
    (Running s0 ∧ s0.fs.state = .seeking ∧ s0.fs.wcnt = 0 ∧ s0.fs.buf.length = s0.cfg.payloadSize ∧
      frameQ1.length = s0.cfg.payloadSize ∧ s0.iq.length < s0.cfg.ingressDepth) ∧
    cfgS.ingressDepth ≤ ({ s0 with iq := sFull.iq } : State).iq.length := by decide

theorem witness_FrameThenFetchYieldsCorrectedBlock : Running s0 ∧ s0.fs.state = .seeking ∧ s0.fs.wcnt = 0 ∧
    s0.fs.buf.length = s0.cfg.payloadSize ∧ frameQ1.length = s0.cfg.payloadSize ∧ s0.iq = [] ∧ s0.pr.state = .idle ∧
    s0.stop = false ∧ 0 < s0.cfg.nch := by decide

theorem witness_DecodeGroupsLittleEndianContainers : frameQ1.length % 4 = 0 ∧ 1 < frameQ1.length / 4 := by decide

theorem witness_CorrectedSampleIsInt24AndStable :
    (0x00FFFFFF : Sample).extractLsb' 0 24 = (0x5AFFFFFF : Sample).extractLsb' 0 24 := by decide

theorem witness_GarbageBytesDoNotMatter : ([1, 0, 0, 0] : Frame).length = ([1, 0, 0, 0x77] : Frame).length ∧
    ∀ i : Nat, i % 4 ≠ 3 → ([1, 0, 0, 0] : Frame)[i]? = ([1, 0, 0, 0x77] : Frame)[i]? := by
  refine ⟨rfl, fun i hi => ?_⟩
  match i with
  | 0 => rfl
  | 1 => rfl
  | 2 => rfl
  | 3 => exact absurd rfl hi
  | n + 4 => rfl

theorem witness_FetchStartsFanout :
    (Running sFrame ∧ sFrame.pr.state = .idle ∧ sFrame.stop = false ∧ sFrame.iq = frameQ1 :: [] ∧ sFrame.cfg.nch ≠ 0) ∧
    Running (fresh { cfgNoPb with capacity := [] }) ∧ (fresh { cfgNoPb with capacity := [] }).cfg.nch = 0 := by decide

theorem witness_FanoutStepsRefusedWhenNotEnabled :
    (Running s0 ∧ s0.iq = [] ∧ s0.pr.state = .idle) ∧ (fanning [1, 2] 2 []).pr.state = .pushing ∧
    Running (fanning [1, 2] 2 []) ∧ (fanning [1, 2] 2 []).cfg.nch ≤ (fanning [1, 2] 2 []).pr.idx ∧
    sLastStop.stop = true ∧ Running sLastStop := by decide

theorem witness_PushAppendsBlock : Running (fanning [3, 4] 1 [chan [], chan [[1, 2]]]) ∧
    (fanning [3, 4] 1 [chan [], chan [[1, 2]]]).ch[1]? = some (chan [[1, 2]]) ∧
    (chan [[1, 2]]).blocks.length < cfgS.cap 1 ∧ 1 < cfgS.nch := by decide

theorem witness_PushAtFullChannelDropsAndCounts :
    Running (fanning [5, 6] 0 [chan [[1, 2], [3, 4]], chan []]) ∧
    (fanning [5, 6] 0 [chan [[1, 2], [3, 4]], chan []]).ch[0]? = some (chan [[1, 2], [3, 4]]) ∧
    cfgS.cap 0 ≤ (chan [[1, 2], [3, 4]]).blocks.length ∧ 0 < cfgS.nch := by decide

/-- One Channel has room, the other is full. -/
theorem witness_FanoutOffersBlockToEveryChannel :
    Running (fanning [5, 6] 0 [chan [[1, 2], [3, 4]], chan []]) ∧
    (fanning [5, 6] 0 [chan [[1, 2], [3, 4]], chan []]).pr.state = .pushing ∧
    (fanning [5, 6] 0 [chan [[1, 2], [3, 4]], chan []]).ch.length = cfgS.nch ∧ 0 < cfgS.nch ∧
    ((fanning [5, 6] 0 [chan [[1, 2], [3, 4]], chan []]).blocks 1).length < cfgS.cap 1 ∧
    cfgS.cap 0 ≤ ((fanning [5, 6] 0 [chan [[1, 2], [3, 4]], chan []]).blocks 0).length := by decide

theorem witness_PopTakesOldestBlock : Running s0 ∧ 1 < s0.cfg.nch ∧ s0.cfg.pbCh ≠ some 1 ∧ s0.ch[1]? = some (chan []) := by
  decide

theorem witness_PopRefusedOutsideOwnChannel : Running s0 ∧ s0.cfg.nch ≤ 2 ∧ s0.cfg.pbCh = some 0 ∧ 0 < s0.cfg.nch := by
  decide

/-- A run that offers a block to Channel 1 and takes it out again. -/
theorem witness_ChannelDeliversInOrder : (∀ l, Instr.reset l ∉ [Instr.push, .pop 1]) ∧
    1 < (fanning [3, 4] 1 [chan [], chan []]).ch.length ∧
    (channelRun 1 [.push, .pop 1] (fanning [3, 4] 1 [chan [], chan []])).map (fun r => (r.2.1, r.2.2)) =
      some ([[3, 4]], [[3, 4]]) := by decide

/-- The greatest request of `NW` bits, and the least that `NW` bits cannot hold. -/
theorem witness_RbeginLatchesRequest : Running s0 ∧ s0.cfg.pbCh = some 0 ∧ s0.pb.state = .idle ∧ 65535 < 2 ^ s0.cfg.nw ∧
    ¬ 65536 < 2 ^ s0.cfg.nw := by decide

theorem witness_RpopMovesBlockToAccumulator :
    Running (draining cfgS [] [[1, 2], [3, 4]] 2 2 0) ∧ RpopReady 0 (draining cfgS [] [[1, 2], [3, 4]] 2 2 0) ∧
    (draining cfgS [] [[1, 2], [3, 4]] 2 2 0).ch[0]? = some (chan [[1, 2], [3, 4]]) :=
  ⟨by decide, (rpopEnabled_iff _ _).1 (by decide), by decide⟩

/-- Room for exactly one block more, and the `snapshot` mode. -/
theorem witness_RpopReady_boundary :
    RpopReady 0 (draining (cfgCap 4) [1, 2] [[4, 5]] 2 1 0) ∧ RpopReady 0 (draining (cfgMode .snapshot) [] [[4, 5]] 2 1 0) :=
  ⟨(rpopEnabled_iff _ _).1 (by decide), (rpopEnabled_iff _ _).1 (by decide)⟩

theorem witness_RendOutputsFromFront :
    Running (draining cfgS [1, 2] [] 2 0 1) ∧ RendReady 0 (draining cfgS [1, 2] [] 2 0 1) ∧
    (draining cfgS [1, 2] [] 2 0 1).pb.req ≤ (draining cfgS [1, 2] [] 2 0 1).pb.acc.length :=
  ⟨by decide, (rendEnabled_iff _ _).1 (by decide), by decide⟩

theorem witness_RendUnderrunFillsWithSilence :
    Running (draining (cfgMode .untilEmpty) [7] [] 2 0 0) ∧ RendReady 0 (draining (cfgMode .untilEmpty) [7] [] 2 0 0) ∧
    (draining (cfgMode .untilEmpty) [7] [] 2 0 0).pb.acc.length < (draining (cfgMode .untilEmpty) [7] [] 2 0 0).pb.req :=
  ⟨by decide, (rendEnabled_iff _ _).1 (by decide), by decide⟩

/-- An underrun whose drain popped nothing, and the accumulator full although blocks remain. -/
theorem witness_RendEndsCallAndSetsStarved :
    Running (draining cfgS [] [] 1 0 0) ∧ RendReady 0 (draining cfgS [] [] 1 0 0) ∧
    Running (draining (cfgCap 4) [1, 2, 3] [[4, 5]] 2 1 0) ∧ RendReady 0 (draining (cfgCap 4) [1, 2, 3] [[4, 5]] 2 1 0) :=
  ⟨by decide, (rendEnabled_iff _ _).1 (by decide), by decide, (rendEnabled_iff _ _).1 (by decide)⟩

/-- `REND` before the blocks of the call are popped; `RPOP` when the accumulator is full. -/
theorem witness_DrainStepsRefusedWhenNotEnabled : cfgS.pbCh = some 0 ∧ (cfgCap 4).pbCh = some 0 ∧
    Running (draining cfgS [] [[1, 2]] 2 1 0) ∧ ¬ RendReady 0 (draining cfgS [] [[1, 2]] 2 1 0) ∧
    Running (draining (cfgCap 4) [1, 2, 3] [[4, 5]] 2 1 0) ∧ ¬ RpopReady 0 (draining (cfgCap 4) [1, 2, 3] [[4, 5]] 2 1 0) :=
  ⟨rfl, rfl, by decide, fun h => absurd ((rendEnabled_iff _ _).2 h) (by decide), by decide,
    fun h => absurd ((rpopEnabled_iff _ _).2 h) (by decide)⟩

theorem witness_PlaybackCallsRefusedWhenNotEnabled :
    (Running (draining cfgS [] [] 2 0 0) ∧ (draining cfgS [] [] 2 0 0).pb.state = .draining) ∧
    Running (fresh cfgNoPb) ∧ (fresh cfgNoPb).cfg.pbCh = none := by decide

/-- Both cases of `RENDER`: enough samples, and an underrun. -/
theorem witness_RenderDrainsAndReturnsBlock : Running (playing cfgS [7] [[1, 2]]) ∧ cfgS.pbCh = some 0 ∧
    (playing cfgS [7] [[1, 2]]).pb.state = .idle ∧ 3 < 2 ^ cfgS.nw ∧ 4 < 2 ^ cfgS.nw := by decide

/-- A finite `ACC_CAP`: of two blocks the first just fits and the second does not (R133, B13), so one is drained. -/
theorem witness_RenderDrainsAndReturnsBlock_bounded : Running (playing (cfgCap 4) [1, 2] [[3, 4], [5, 6]]) ∧
    (cfgCap 4).pbCh = some 0 ∧ (playing (cfgCap 4) [1, 2] [[3, 4], [5, 6]]).pb.state = .idle ∧
    see (exec (.render 3) (playing (cfgCap 4) [1, 2] [[3, 4], [5, 6]]))
      (fun t => (t.pb.out, t.pb.acc, t.blocks 0, t.pb.drained)) = some ([1, 2, 3], [4], [[5, 6]], 1) := by decide

theorem witness_RenderIsItsThreePhases : Running (playing cfgS [7] [[1, 2]]) ∧ cfgS.pbCh = some 0 ∧ cfgS.accCap = none ∧
    (playing cfgS [7] [[1, 2]]).pb.state = .idle := by decide

/-- A state in the middle of everything meets the invariant: a Frame waits, a block is half fanned out, a call drains. -/
def sBusy : State :=
  { draining cfgS [5, 6, 7] [[1, 2]] 2 1 0 with
    fs := sPay.fs, iq := [frameQ1], pr := { state := .pushing, block := [1, 2], idx := 1 } }

theorem inInt24_of_all {l : List Sample} (h : l.all (fun x => decide (inInt24 x)) = true) : ∀ x ∈ l, inInt24 x :=
  fun x hx => of_decide_eq_true (List.all_eq_true.1 h x hx)

theorem blockOk_sBusy : BlockOk sBusy.cfg [1, 2] := ⟨by decide, inInt24_of_all (by decide)⟩

theorem channelsOk_sBusy : ChannelsOk sBusy := by
  refine ⟨by decide, fun i hi => ?_⟩
  match i, hi with
  | 0, _ => exact ⟨by decide, List.forall_mem_singleton.2 blockOk_sBusy, by decide⟩
  | 1, _ => exact ⟨by decide, List.forall_mem_nil _, by decide⟩
  | n + 2, h => exact absurd h (by simp [sBusy, draining, playing, fresh, State.afterReset, Config.nch, cfgS])

theorem inv_sBusy : Inv sBusy :=
  ⟨by decide, by decide, by decide, ⟨fun _ => ⟨by decide, blockOk_sBusy⟩, by decide⟩, channelsOk_sBusy,
    inInt24_of_all (by decide), inInt24_of_all (by decide), trivial, fun _ => by decide, by decide, by decide, by decide⟩

theorem witness_DrainIsNeverStuck : Inv sBusy ∧ Running sBusy ∧ sBusy.cfg.pbCh = some 0 ∧ sBusy.pb.state = .draining :=
  ⟨inv_sBusy, by decide, by decide, by decide⟩

theorem witness_UnityGainIsIdentity : (cfgGain 0x0100).gain = 2 ^ (cfgGain 0x0100).gf ∧ inInt24 (-8388608 : Sample) ∧
    (cfgGain 0x0200).gain = 2 * 2 ^ (cfgGain 0x0200).gf ∧ (8388607 : Sample).toInt = int24Max ∧
    (-8388608 : Sample).toInt = int24Min := by decide

theorem witness_GainKeepsSign : 0 ≤ (0 : Sample).toInt ∧ (-1 : Sample).toInt ≤ 0 ∧ (0 : Sample).toInt ≤ 0 := by decide

/-- The greatest gain of 16 bits is legal. -/
theorem witness_OutputReadsAndGainInput :
    ({ s0.env.cfgIn with gain := 0xFFFF } : Config).legal = true ∧ 0xFFFF < 2 ^ s0.env.cfgIn.gw := by decide

theorem witness_StopSetsFlagOnly : Running s0 := running_s0

theorem witness_RestartReturnsToSearch :
    (Running (reader .halted 0 0 0) ∧ (reader .halted 0 0 0).fs.state = .halted) ∧ Running s0 ∧ s0.fs.state ≠ .halted := by
  decide

theorem witness_ResetGivesResetState : (reader .fatal 0 0 0).env.cfgIn.legal = true := by decide

theorem witness_FatalRefusesAllButReset : (reader .fatal 0 0 0).fs.state = .fatal ∧ (∀ l, Instr.stop ≠ .reset l) ∧
    (∀ v, Instr.stop ≠ .samp32 v) ∧ ∀ g, Instr.stop ≠ .gainq g := by
  refine ⟨rfl, ?_, ?_, ?_⟩ <;> intro _ h <;> cases h

/-- A payload of 510 bytes is no whole number of containers; a presented gain that is not latched; a gain presented and put
back. -/
theorem witness_IllegalOrChangedConfigurationIsRefused :
    (fresh { cfgS with payloadSize := 510 }).cfg.legal = false ∧
    (presentConfig (cfgGain 0) s0).cfg.legal = true ∧ ¬ InputsStable (presentConfig (cfgGain 0) s0) ∧
    (s0.cfg.legal = true ∧ cfgGain 0 ≠ s0.env.cfgIn ∧ ¬ InputsStable (presentConfig cfgS (presentConfig (cfgGain 0) s0))) ∧
    (presentConfig { cfgS with cntW := 0 } s0).env.cfgIn.legal = false := by decide

/-- R211: a run that starts in `FATAL` is over at once, the outside still there. -/
theorem test_fatal_run_over : RunOver (State.afterReset cfgS false (Env.start cfgS)) ∧
    ¬ FinalGood (State.afterReset cfgS false (Env.start cfgS)) ∧
    ¬ RunOver s0 := by decide

/-- Y5; a run that is over, in `STOPPED` with nothing more from outside, and in `FATAL` with a read of an output or a `RESET`
to come. -/
theorem witness_QuiescentStateHasNoInternalStep :
    Quiescent { reader .stopped 0 0 0 with iq := [frameQ1], stop := true, ch := [chan [[1, 2]], chan []] } ∧
    (RunOver sOver ∧ OutsideDone sOver ∧ sOver.env.script = [] ∧ sOver.cfg.legal = true ∧ InputsStable sOver) ∧
    (RunOver (reader .fatal 0 0 0) ∧
      (after (step ((reader .fatal 0 0 0).placeInput (.sample 5)))).isSome = true ∧
      see (step ((reader .fatal 0 0 0).placeInput (.stim 0x3F000001))) (fun t => t.fs.state) = some .seeking) ∧
    ∃ t, step sOver = .next t := by
  refine ⟨by decide, by decide, by decide, sOver.ticked, ?_⟩
  show (match freeChoice sOver with | some u => freeStep u sOver.ticked | none => .next sOver.ticked) = _
  cases hc : freeChoice sOver with
  | none => rfl
  | some u =>
    obtain ⟨i, hi, hr⟩ := runInput_of_internal ((freeChoice_eq_some.1 hc).2.resolve_left (by decide)) sOver.ticked
    show freeStep u sOver.ticked = _
    rw [freeStep, hr]
    rcases instr_isInternal_iff.1 hi with rfl | rfl | rfl | rfl <;> rfl

theorem witness_ResetMeetsInvariant : cfgS.legal = true := by decide

theorem witness_StepKeepsInvariant : Inv (sBusy.placeInput (.link 1)) ∧
    (after (step (sBusy.placeInput (.link 1)))).isSome = true := ⟨inv_sBusy, by decide⟩

/-- A counter of 2 bits that has wrapped: four Frames were dropped. -/
theorem witness_StepKeepsCountersMatchingLog :
    CountersMatchLog ({ fresh { cfgS with cntW := 2 } with
      diag := [.ingressFull, .ingressFull, .ingressFull, .ingressFull] }.placeInput (.link 1)) ∧
    (after (step ({ fresh { cfgS with cntW := 2 } with
      diag := [.ingressFull, .ingressFull, .ingressFull, .ingressFull] }.placeInput (.link 1)))).isSome = true := by decide

theorem witness_DiagnosticLogOnlyGrows : (after (exec .tmo sMark)).isSome = true ∧ (∀ l, Instr.tmo ≠ .reset l) ∧
    (∀ p, Instr.tmo ≠ .frame p) ∧ ∀ g v, Instr.tmo ≠ .cont32 g v := by
  refine ⟨by decide, ?_, ?_, ?_⟩ <;> intros <;> intro h <;> cases h

theorem witness_ConfigurationIsConstant : (after (exec .fetch sFrame)).isSome = true ∧ ∀ l, Instr.fetch ≠ .reset l := by
  refine ⟨by decide, ?_⟩
  intro _ h
  cases h

/-- One instruction of each agent runs: for every clause an instruction that is none of the owners'. -/
theorem witness_OnlyOwnersWrite : (after (exec .fetch sFrame)).isSome = true ∧ (after (exec (.rxb 0) s0)).isSome = true ∧
    (after (exec (.pop 1) s0)).isSome = true ∧ (after (exec (.render 3) s0)).isSome = true ∧
    (after (exec .stop s0)).isSome = true ∧ (after (exec (.samp32 0) s0)).isSome = true ∧
    s0.cfg.pbCh ≠ some 1 := by decide

end Sys2Proof.Tests
end

section
/-! PROOF. What the Reader's operations leave unchanged: they write the Frame Synchronizer, the ingress queue with its
counter, and the log (R10, R40). -/

namespace Sys2Proof.Machine

theorem ingressPush_frame (f : Frame) (s : State) :
    ingressPush f s = { s with iq := (ingressPush f s).iq, iqDropCnt := (ingressPush f s).iqDropCnt,
                               diag := (ingressPush f s).diag } := by
  unfold ingressPush
  split <;> rfl

theorem readByte_frame {b : Byte} {s t : State} (h : readByte b s = .next t) :
    t = { s with fs := t.fs, iq := t.iq, iqDropCnt := t.iqDropCnt, diag := t.diag } := by
  rcases readByte_eq_next.1 h with ⟨-, -, rfl⟩ | ⟨-, -, rfl⟩ | ⟨-, -, rfl⟩ | ⟨-, -, rfl⟩
  · rfl
  · rfl
  · rfl
  · rw [takePayLast, ingressPush_frame]
    rfl

theorem readBytes_frame {l : List Byte} {s t : State} (h : readBytes l s = .next t) :
    t = { s with fs := t.fs, iq := t.iq, iqDropCnt := t.iqDropCnt, diag := t.diag } :=
  readBytes_induct
    (P := fun s t => t = { s with fs := t.fs, iq := t.iq, iqDropCnt := t.iqDropCnt, diag := t.diag })
    (fun _ => rfl) (fun _ _ _ hu ht => by rw [ht, hu]) (fun _ _ _ => readByte_frame) l s t h

theorem readTimeout_frame {s t : State} (h : readTimeout s = .next t) :
    t = { s with fs := t.fs, diag := t.diag } := by
  rcases readTimeout_eq_next.1 h with ⟨-, rfl⟩ | ⟨-, rfl⟩ <;> rfl

theorem exec_reader_frame {i : Instr} {s t : State} (hi : i.agent = .reader) (h : exec i s = .next t) :
    t = { s with fs := t.fs, iq := t.iq, iqDropCnt := t.iqDropCnt, diag := t.diag } := by
  cases i with
  | rxb b => exact readByte_frame (execRxb_eq_next.1 h).2
  | tmo => rw [readTimeout_frame (execTmo_eq_next.1 h).2]
  | sof o n => exact readByte_frame (sof_eq_readByte h).2
  | skip o n => exact readByte_frame (skip_eq_readByte h).2
  | pay b => exact readByte_frame (pay_eq_readByte h).2
  | payLast b => exact readByte_frame (payLast_eq_readByte h).2
  | cont32 g v => exact readBytes_frame (execCont32_eq_next.1 h).2
  | frame p => exact readBytes_frame (execFrame_eq_next.1 h).2.2
  | _ => cases hi

end Sys2Proof.Machine
end

section
/-! PROOF. What passes through a Channel (R51): every operation takes the oldest blocks of a Channel, offers one at its tail,
or leaves it alone, and runs of such operations compose. -/

namespace Sys2Proof.Machine

/-! ## Taking blocks out of a Channel (R111) -/

/-- From `s` to `t` the `n` oldest blocks are taken out of Channel `d` (all, if it holds fewer), and the Channels change in
nothing else. -/
structure TakesOldest (d n : Nat) (s t : State) : Prop where
  cfg : t.cfg = s.cfg
  length_ch : t.ch.length = s.ch.length
  blocks : ∀ c, t.blocks c = if c = d then (s.blocks c).drop n else s.blocks c
  dropCnt : ∀ c, t.dropCnt c = s.dropCnt c

theorem takesOldest_zero_of_ch (d : Nat) {s t : State} (hcfg : t.cfg = s.cfg) (hch : t.ch = s.ch) :
    TakesOldest d 0 s t where
  cfg := hcfg
  length_ch := by rw [hch]
  blocks c := by simp [blocks_eq_of_ch hch]
  dropCnt := dropCnt_eq_of_ch hch

theorem TakesOldest.trans {d m n : Nat} {s u t : State} (hm : TakesOldest d m s u) (hn : TakesOldest d n u t) :
    TakesOldest d (m + n) s t where
  cfg := hn.cfg.trans hm.cfg
  length_ch := hn.length_ch.trans hm.length_ch
  blocks c := by
    rw [hn.blocks, hm.blocks]
    split <;> simp
  dropCnt c := (hn.dropCnt c).trans (hm.dropCnt c)

/-- Writing anything but the configuration and the Channels takes nothing more. -/
theorem TakesOldest.of_ch {d n : Nat} {s u t : State} (h : TakesOldest d n s u) (hcfg : t.cfg = u.cfg)
    (hch : t.ch = u.ch) : TakesOldest d n s t :=
  h.trans (takesOldest_zero_of_ch d hcfg hch)

theorem takesOldest_setBlocks (d n : Nat) (s : State) : TakesOldest d n s (s.setBlocks d ((s.blocks d).drop n)) where
  cfg := rfl
  length_ch := by simp
  blocks c := by
    rw [blocks_setBlocks]
    by_cases hc : c = d
    · subst hc
      by_cases hlen : c < s.ch.length
      · simp [hlen]
      · simp [hlen, blocks_of_length_le (Nat.le_of_not_lt hlen)]
    · simp [hc]
  dropCnt c := dropCnt_setBlocks s d c _

theorem popChannel_takesOldest (d : Nat) (s : State) : TakesOldest d 1 s (popChannel d s) := by
  have htake := takesOldest_setBlocks d 1 s
  rw [List.drop_one, ← popQueue_snd] at htake
  exact htake.of_ch rfl rfl

theorem drainBlock_takesOldest {d : Nat} {s : State} (h : s.blocks d ≠ []) :
    TakesOldest d 1 s (drainBlock d s) ∧ (drainBlock d s).pb.drained = s.pb.drained + 1 := by
  obtain ⟨b, rest, hb⟩ := List.exists_cons_of_ne_nil h
  have htake := takesOldest_setBlocks d 1 s
  rw [hb, List.drop_one, List.tail_cons] at htake
  rw [drainBlock_of_cons hb]
  exact ⟨htake.of_ch rfl rfl, rfl⟩

/-- A drain takes as many blocks as `pb.drained` counts (R24, R145). -/
theorem drainWhile_takesOldest (d fuel : Nat) (s : State) :
    ∃ n, TakesOldest d n s (drainWhile d fuel s) ∧ (drainWhile d fuel s).pb.drained = s.pb.drained + n :=
  drainWhile_induct (P := fun s t => ∃ n, TakesOldest d n s t ∧ t.pb.drained = s.pb.drained + n) d
    (fun _ => ⟨0, takesOldest_zero_of_ch d rfl rfl, rfl⟩)
    (fun _ _ _ ⟨m, hm, em⟩ ⟨n, hn, en⟩ => ⟨m + n, hm.trans hn, by rw [en, em, Nat.add_assoc]⟩)
    (fun _ hready => ⟨1, drainBlock_takesOldest hready.2.1⟩) fuel s

theorem endRender_ch (s : State) : (endRender s).ch = s.ch := by rw [endRender_frame]

theorem endRender_cfg (s : State) : (endRender s).cfg = s.cfg := by rw [endRender_frame]

theorem endRender_drained (s : State) : (endRender s).pb.drained = s.pb.drained := by
  unfold endRender
  split <;> rfl

theorem execRender_takesOldest {n : Nat} {s t : State} (h : execRender n s = .next t) :
    ∃ d, s.cfg.pbCh = some d ∧ TakesOldest d t.pb.drained s t := by
  obtain ⟨-, d, hd, -, -, rfl⟩ := execRender_eq_next.1 h
  obtain ⟨k, hk, ek⟩ := drainWhile_takesOldest d (s.blocks d).length (beginRender n d s)
  have hbegin : TakesOldest d 0 s (beginRender n d s) := takesOldest_zero_of_ch d rfl rfl
  rw [endRender_drained, ek]
  exact ⟨d, hd, (hbegin.trans hk).of_ch (endRender_cfg _) (endRender_ch _)⟩

/-! ## Offering a block to a Channel (R115, R116) -/

/-- Offering a block appends it to Channel `d` where that has room, and counts one drop there otherwise. -/
theorem offerBlock_eq (d : Nat) (s : State) : offerBlock d s =
    if (s.blocks d).length < s.cfg.cap d then s.setBlocks d (s.blocks d ++ [s.pr.block])
    else s.raise (.channelFull d) := by
  split
  · next hroom => exact offerBlock_of_room hroom
  · next hfull => exact offerBlock_of_full (Nat.le_of_not_lt hfull)

theorem offerBlock_length_ch (d : Nat) (s : State) : (offerBlock d s).ch.length = s.ch.length := by
  rw [offerBlock_eq]
  split
  · simp
  · exact length_ch_raise s _

/-! ## Order and loss, seen from one Channel (R51) -/

/-- Between `s` and `t` Channel `c` keeps the order of its blocks, and counts every one that is lost. -/
structure Delivers (c : Nat) (s t : State) (popped offered : List Block) : Prop where
  cfg : t.cfg = s.cfg
  length_ch : t.ch.length = s.ch.length
  inOrder : List.Sublist (popped ++ t.blocks c) (s.blocks c ++ offered)
  counted : c < s.ch.length → ∃ lost : Nat,
    (popped ++ t.blocks c).length + lost = (s.blocks c ++ offered).length ∧
    t.dropCnt c ≡ s.dropCnt c + lost [MOD 2 ^ s.cfg.cntW]

/-- Where nothing is lost, what is popped and what remains is what stood there and what was offered. -/
theorem Delivers.of_lossless {c : Nat} {s t : State} {popped offered : List Block} (hcfg : t.cfg = s.cfg)
    (hlen : t.ch.length = s.ch.length) (hblocks : popped ++ t.blocks c = s.blocks c ++ offered)
    (hcnt : t.dropCnt c = s.dropCnt c) : Delivers c s t popped offered where
  cfg := hcfg
  length_ch := hlen
  inOrder := by rw [hblocks]
  counted _ := ⟨0, by rw [hblocks, Nat.add_zero], by rw [hcnt, Nat.add_zero]⟩

theorem Delivers.of_ch {c : Nat} {s t : State} (hcfg : t.cfg = s.cfg) (hch : t.ch = s.ch) : Delivers c s t [] [] :=
  .of_lossless hcfg (by rw [hch]) (by simp [blocks_eq_of_ch hch]) (dropCnt_eq_of_ch hch c)

/-- Where there is no Channel `c`, there is nothing to pop. -/
theorem Delivers.of_no_channel {c : Nat} {s t : State} (offered : List Block) (hcfg : t.cfg = s.cfg)
    (hlen : t.ch.length = s.ch.length) (hc : s.ch.length ≤ c) : Delivers c s t [] offered where
  cfg := hcfg
  length_ch := hlen
  inOrder := by simp [blocks_of_length_le (hlen ▸ hc : t.ch.length ≤ c)]
  counted h := absurd h (Nat.not_lt.2 hc)

theorem TakesOldest.delivers {c d n : Nat} {s t : State} (h : TakesOldest d n s t) :
    Delivers c s t (if d = c then (s.blocks c).take n else []) [] := by
  refine .of_lossless h.cfg h.length_ch ?_ (h.dropCnt c)
  rw [h.blocks, List.append_nil]
  by_cases hc : c = d
  · simp [hc]
  · simp [hc, Ne.symm hc]

theorem Delivers.trans {c : Nat} {s u t : State} {popped₁ popped₂ offered₁ offered₂ : List Block}
    (h₁ : Delivers c s u popped₁ offered₁) (h₂ : Delivers c u t popped₂ offered₂) :
    Delivers c s t (popped₁ ++ popped₂) (offered₁ ++ offered₂) where
  cfg := h₂.cfg.trans h₁.cfg
  length_ch := h₂.length_ch.trans h₁.length_ch
  inOrder := by
    have hrest := h₂.inOrder.append_left popped₁
    have hfirst := h₁.inOrder.append_right offered₂
    simp only [List.append_assoc] at hrest hfirst ⊢
    exact hrest.trans hfirst
  counted hc := by
    obtain ⟨lost₁, hlen₁, hcnt₁⟩ := h₁.counted hc
    obtain ⟨lost₂, hlen₂, hcnt₂⟩ := h₂.counted (h₁.length_ch ▸ hc)
    rw [h₁.cfg] at hcnt₂
    refine ⟨lost₁ + lost₂, ?_, ?_⟩
    · simp only [List.length_append] at hlen₁ hlen₂ ⊢
      omega
    · rw [← Nat.add_assoc]
      exact hcnt₂.trans (hcnt₁.add_right lost₂)

/-- `PUSH` at Channel `c`: the block goes to its tail, or is the one block lost. -/
theorem offerBlock_delivers_self (c : Nat) (s : State) : Delivers c s (offerBlock c s) [] [s.pr.block] := by
  have hcfg : (offerBlock c s).cfg = s.cfg := by rw [offerBlock_frame]
  have hlen := offerBlock_length_ch c s
  by_cases hc : c < s.ch.length
  · rcases Nat.lt_or_ge (s.blocks c).length (s.cfg.cap c) with hroom | hfull
    · refine .of_lossless hcfg hlen ?_ ?_ <;> rw [offerBlock_of_room hroom]
      · exact blocks_setBlocks_self hc _
      · exact dropCnt_setBlocks s c c _
    · refine ⟨hcfg, hlen, ?_, fun _ => ⟨1, ?_, ?_⟩⟩ <;> rw [offerBlock_of_full hfull]
      · simp [blocks_raise]
      · simp [blocks_raise]
      · rw [dropCnt_raise_self hc]
        exact Nat.mod_modEq _ _
  · exact .of_no_channel _ hcfg hlen (Nat.le_of_not_lt hc)

/-- `PUSH` at another Channel leaves Channel `c` alone. -/
theorem offerBlock_delivers_ne {c d : Nat} (h : d ≠ c) (s : State) : Delivers c s (offerBlock d s) [] [] := by
  refine .of_lossless (by rw [offerBlock_frame]) (offerBlock_length_ch d s) ?_ ?_ <;> rw [offerBlock_eq] <;> split
  · simpa using blocks_setBlocks_ne h.symm _
  · simpa using blocks_raise s (.channelFull d) c
  · exact dropCnt_setBlocks s d c _
  · exact dropCnt_raise_ne s (by simpa using h)

theorem pushBlock_delivers (c : Nat) (s : State) :
    Delivers c s (pushBlock s) [] (if s.pr.idx = c then [s.pr.block] else []) := by
  have hadvance : Delivers c (offerBlock s.pr.idx s) (pushBlock s) [] [] := .of_ch rfl rfl
  split
  · next hc =>
    subst hc
    exact (offerBlock_delivers_self s.pr.idx s).trans hadvance
  · next hc => exact (offerBlock_delivers_ne hc s).trans hadvance

/-! ## Every operation but `RESET`, and runs of them -/

theorem exec_delivers (c : Nat) {i : Instr} {s t : State} (hi : ∀ l, i ≠ .reset l) (h : exec i s = .next t) :
    Delivers c s t (poppedFrom c i s t) (offeredTo c i s) := by
  cases i
  case rxb | tmo | sof | skip | pay | payLast | cont32 | frame =>
    have hframe := exec_reader_frame rfl h
    exact .of_ch (by rw [hframe]) (by rw [hframe])
  case fetch =>
    obtain ⟨-, -, -, f, rest, -, rfl⟩ := execFetch_eq_next.1 h
    unfold fetchFrame
    split <;> exact .of_ch rfl rfl
  case push =>
    obtain ⟨-, -, -, rfl⟩ := execPush_eq_next.1 h
    exact pushBlock_delivers c s
  case pop d =>
    obtain ⟨-, -, -, rfl⟩ := execPop_eq_next.1 h
    exact (popChannel_takesOldest d s).delivers
  case render n =>
    obtain ⟨d, hd, htake⟩ := execRender_takesOldest h
    simpa [poppedFrom, offeredTo, hd] using htake.delivers
  case rbegin n =>
    obtain ⟨-, d, -, -, rfl⟩ := execRbegin_eq_next.1 h
    exact .of_ch rfl rfl
  case rpop =>
    obtain ⟨-, d, hd, ⟨-, hne, -⟩, rfl⟩ := execRpop_eq_next.1 h
    simpa [poppedFrom, offeredTo, hd] using (drainBlock_takesOldest hne).1.delivers
  case rend =>
    obtain ⟨-, d, -, -, rfl⟩ := execRend_eq_next.1 h
    exact .of_ch (endRender_cfg s) (endRender_ch s)
  case stop =>
    obtain ⟨-, rfl⟩ := execStop_eq_next.1 h
    exact .of_ch rfl rfl
  case restart =>
    obtain ⟨-, -, rfl⟩ := execRestart_eq_next.1 h
    exact .of_ch rfl rfl
  case reset l => exact absurd rfl (hi l)
  case samp32 | gainq =>
    cases h
    exact .of_ch rfl rfl

/-- What a run that begins with an operation is made of. -/
theorem channelRun_cons_eq_some {c : Nat} {i : Instr} {is : List Instr} {s u : State} {popped offered : List Block}
    (h : channelRun c (i :: is) s = some (u, popped, offered)) :
    ∃ t popped' offered', exec i s = .next t ∧ channelRun c is t = some (u, popped', offered') ∧
      popped = poppedFrom c i s t ++ popped' ∧ offered = offeredTo c i s ++ offered' := by
  rw [channelRun] at h
  split at h
  · next t ht =>
    split at h
    · next hrun =>
      cases h
      exact ⟨t, _, _, ht, hrun, rfl, rfl⟩
    · cases h
  · cases h
  · cases h

theorem channelRun_delivers (c : Nat) (is : List Instr) : ∀ {s t : State} {popped offered : List Block},
    (∀ l, Instr.reset l ∉ is) → channelRun c is s = some (t, popped, offered) → Delivers c s t popped offered := by
  induction is with
  | nil =>
    intro s t popped offered _ h
    cases h
    exact .of_ch rfl rfl
  | cons i is ih =>
    intro s t popped offered hreset h
    simp only [List.mem_cons, not_or] at hreset
    obtain ⟨u, popped', offered', hexec, hrun, rfl, rfl⟩ := channelRun_cons_eq_some h
    exact (exec_delivers c (fun l => Ne.symm (hreset l).1) hexec).trans (ih (fun l => (hreset l).2) hrun)

/-- Settles O33, by induction on the run: each operation delivers Channel `c` in order (`exec_delivers`), and deliveries
compose (`Delivers.trans`). -/
theorem channelDeliversInOrder : Obligations.ChannelDeliversInOrder := by
  intro c is s t popped offered hreset hrun
  have hdel := channelRun_delivers c is hreset hrun
  exact ⟨hdel.inOrder, hdel.counted⟩

end Sys2Proof.Machine
end

section
/-! PROOF. What a byte of the search does when the shifted window is no match (R84): the byte alone and the row `SKIP` that
names it reach the same state. -/

namespace Sys2Proof.Machine

theorem windowMatches_eq_false_iff {w : BitVec 16} {c : Nat} {b m0 m1 : Byte} :
    windowMatches w c b m0 m1 = false ↔ ¬ (min (c + 1) 2 = 2 ∧ w.extractLsb' 0 8 ++ b = m0 ++ m1) := by
  rw [← Bool.not_eq_true, windowMatches_iff]

theorem execRxb_of_no_match {s : State} {b : Byte} (hrun : Running s) (hseek : s.fs.state = .seeking)
    (hno : windowMatches s.fs.win s.fs.wcnt b s.cfg.m0 s.cfg.m1 = false) : execRxb b s = .next (takeSkip b s) :=
  execRxb_eq_next.2 ⟨hrun, readByte_eq_next.2 (.inr (.inl ⟨hseek, hno, rfl⟩))⟩

/-- The older byte decides nothing where the window is empty (R12; log entry 14). -/
theorem execSkip_of_no_match {s : State} {older b : Byte} (hrun : Running s) (hseek : s.fs.state = .seeking)
    (hno : windowMatches s.fs.win s.fs.wcnt b s.cfg.m0 s.cfg.m1 = false)
    (holder : s.fs.wcnt = 0 ∨ older = olderAfter s.fs.win) : execSkip older b s = .next (takeSkip b s) :=
  execSkip_eq_next.2 ⟨hrun, fits_skip.2 ⟨phase_eq_seeking.2 hseek, holder, hno⟩, rfl⟩

/-- Settles O10: the next state is `takeSkip b s` for the byte and for the row, and that is the stated one by definition. -/
theorem searchByteSlidesWindow : Obligations.SearchByteSlidesWindow := by
  intro s b hrun hseek hno
  have hmatch := windowMatches_eq_false_iff.2 hno
  exact ⟨execRxb_of_no_match hrun hseek hmatch, fun _ holder => execSkip_of_no_match hrun hseek hmatch holder⟩

end Sys2Proof.Machine
end

section
/-! PROOF. The Sample Decoder (R100, R101): the value of a container, the containers of a payload, and the sign extension
that `correct` makes of a sample. -/

namespace Sys2Proof.Machine

/-! ## `decode` (R100) -/

/-- R43: the first byte received weighs least. -/
theorem containerOf_toNat (b0 b1 b2 b3 : Byte) : (containerOf b0 b1 b2 b3).toNat =
    b0.toNat + 2 ^ 8 * b1.toNat + 2 ^ 16 * b2.toNat + 2 ^ 24 * b3.toNat := by
  have happend {w : Nat} (x : BitVec w) (b : Byte) : (x ++ b).toNat = 2 ^ 8 * x.toNat + b.toNat := by
    rw [BitVec.toNat_append, ← Nat.shiftLeft_add_eq_or_of_lt b.isLt, Nat.shiftLeft_eq, Nat.mul_comm]
  rw [containerOf, happend, happend, happend]
  omega

theorem containerOf_eq_ofNat (b0 b1 b2 b3 : Byte) : containerOf b0 b1 b2 b3 =
    BitVec.ofNat 32 (b0.toNat + 2 ^ 8 * b1.toNat + 2 ^ 16 * b2.toNat + 2 ^ 24 * b3.toNat) := by
  rw [← containerOf_toNat, BitVec.ofNat_toNat, BitVec.setWidth_eq]

/-- The hypothesis is that of the last case of `decodePayload`: no four bytes are left. -/
theorem length_div_four_of_no_container {f : Frame}
    (hshort : ∀ b0 b1 b2 b3 rest, f = b0 :: b1 :: b2 :: b3 :: rest → False) : f.length / 4 = 0 := by
  match f with
  | [] | [_] | [_, _] | [_, _, _] => simp
  | b0 :: b1 :: b2 :: b3 :: rest => exact absurd rfl (hshort b0 b1 b2 b3 rest)

/-- Bytes beyond the last full container are dropped, so no length needs to be assumed. -/
theorem decodePayload_length (f : Frame) : (decodePayload f).length = f.length / 4 := by
  induction f using decodePayload.induct with
  | case1 b0 b1 b2 b3 rest ih =>
    simp only [decodePayload, List.length_cons, ih]
    omega
  | case2 f hshort => rw [decodePayload.eq_2 f hshort, length_div_four_of_no_container hshort, List.length_nil]

theorem decodePayload_getElem? {f : Frame} {i : Nat} (hi : i < f.length / 4) : (decodePayload f)[i]? =
    some (containerOf (f.getD (4 * i) 0) (f.getD (4 * i + 1) 0) (f.getD (4 * i + 2) 0) (f.getD (4 * i + 3) 0)) := by
  induction f using decodePayload.induct generalizing i with
  | case1 b0 b1 b2 b3 rest ih =>
    cases i with
    | zero => rfl
    | succ i =>
      have hrest : i < rest.length / 4 := by simp only [List.length_cons] at hi; omega
      exact ih hrest
  | case2 f hshort => exact absurd (length_div_four_of_no_container hshort ▸ hi) (Nat.not_lt_zero i)

/-- Settles O21: the containers of a payload lie four bytes apart (`decodePayload_getElem?`), and the value of each is that
of its bytes (`containerOf_eq_ofNat`). -/
theorem decodeGroupsLittleEndianContainers : Obligations.DecodeGroupsLittleEndianContainers := by
  intro f _
  refine ⟨decodePayload_length f, fun i hi => ?_⟩
  rw [decodePayload_getElem? hi, containerOf_eq_ofNat]

/-! ## `correct` (R101) -/

/-- The arithmetic right shift is the division by `2 ^ 8` that rounds down. -/
theorem correctSample_toInt (x : Sample) :
    (correctSample x).toInt = (BitVec.ofNat 32 (x.toNat * 2 ^ 8)).toInt / 2 ^ 8 := by
  have hshl : x <<< 8 = BitVec.ofNat 32 (x.toNat * 2 ^ 8) :=
    BitVec.eq_of_toNat_eq (by rw [BitVec.toNat_shiftLeft, Nat.shiftLeft_eq, BitVec.toNat_ofNat])
  rw [correctSample, BitVec.toInt_sshiftRight, Int.shiftRight_eq_div_pow, hshl]
  rfl

/-- Bit `i` below 24 moves up to `i + 8` and back; each bit from 24 up is the sign of the shifted word, bit 23 of `x`. -/
theorem correctSample_eq_signExtend (x : Sample) : correctSample x = (x.extractLsb' 0 24).signExtend 32 := by
  refine BitVec.eq_of_getLsbD_eq fun i hi => ?_
  rw [correctSample, BitVec.getLsbD_sshiftRight, BitVec.getLsbD_signExtend]
  by_cases hlow : i < 24
  · simp [hlow, hi, show 8 + i < 32 by omega]
  · simp [hlow, hi, show ¬ 8 + i < 32 by omega, BitVec.msb_eq_getLsbD_last]

/-- Settles O22: `correctBlock` is a map of `correctSample`, whose value and whose bits the two lemmas above give. -/
theorem correctIsSignExtensionFromBit23 : Obligations.CorrectIsSignExtensionFromBit23 :=
  ⟨fun _ => ⟨List.length_map _, fun _ => List.getElem?_map⟩,
    fun x => ⟨correctSample_toInt x, correctSample_eq_signExtend x⟩⟩

end Sys2Proof.Machine
end

section
/-! PROOF. `PUSH` at a full Channel (R116): the step writes the record of that Channel, the log and the Processing registers. -/

namespace Sys2Proof.Machine

/-- `ChannelFull` writes the record of its Channel and the log; the counter wraps at `CNT_W` bits (R180, R195). -/
theorem raise_channelFull_of_getElem? {s : State} {c : Nat} {k : Chan} (h : s.ch[c]? = some k) :
    s.raise (.channelFull c) =
      { s with ch := s.ch.set c { k with dropCnt := bump s.cfg k.dropCnt }, diag := s.diag ++ [.channelFull c] } := by
  rw [State.raise_channelFull, modify_eq_set h]

theorem pushBlock_of_full {s : State} (h : s.cfg.cap s.pr.idx ≤ (s.blocks s.pr.idx).length) :
    pushBlock s = { s.raise (.channelFull s.pr.idx) with pr := advanceFanout s.pr s.cfg.nch } := by
  rw [pushBlock, offerBlock_of_full h]

/-- Settles O29: `PUSH` is enabled (`execPush_eq_next`), the offer to a full Channel is `ChannelFull` and no more
(`pushBlock_of_full`), and that event writes the record `k` of the Channel (`raise_channelFull_of_getElem?`). -/
theorem pushAtFullChannelDropsAndCounts : Obligations.PushAtFullChannelDropsAndCounts := by
  intro s k hrun hpushing hidx hk hfull
  rw [← blocks_of_getElem? hk] at hfull
  refine execPush_eq_next.2 ⟨hrun, hpushing, hidx, ?_⟩
  rw [pushBlock_of_full hfull, raise_channelFull_of_getElem? hk]
  rfl

end Sys2Proof.Machine
end

section
/-! PROOF. What `REND` outputs and leaves (R135 to R137): the block is as long as the request, and the accumulator either
covers the request or is output whole. -/

namespace Sys2Proof.Machine

/-! ## The output block (R135) -/

/-- R135: exactly as many samples as requested, whatever the accumulator holds. -/
theorem outputBlock_length (s : State) : (outputBlock s).length = s.pb.req := by
  rw [outputBlock, List.length_append, List.length_map, List.length_take, List.length_replicate]
  omega

theorem outputBlock_of_enough {s : State} (h : s.pb.req ≤ s.pb.acc.length) :
    outputBlock s = (s.pb.acc.take s.pb.req).map (gainclip s.cfg) := by
  rw [outputBlock, Nat.sub_eq_zero_of_le h, List.replicate_zero, List.append_nil]

theorem outputBlock_of_underrun {s : State} (h : s.pb.acc.length < s.pb.req) : outputBlock s =
    s.pb.acc.map (gainclip s.cfg) ++ List.replicate (s.pb.req - s.pb.acc.length) 0 := by
  rw [outputBlock, List.take_of_length_le h.le]

/-! ## The end of a call (R136, R137) -/

theorem endRender_of_enough {s : State} (h : s.pb.req ≤ s.pb.acc.length) : endRender s = rendered s := by
  have hno : underran s = false := decide_eq_false (Nat.not_lt.2 h)
  rw [endRender, hno, if_neg Bool.false_ne_true]

/-- The underrun diagnostic comes on top of the registers every `REND` leaves. -/
theorem endRender_of_underrun {s : State} (h : s.pb.acc.length < s.pb.req) :
    endRender s = (rendered s).raise (.playbackUnderrun s.pb.acc.length s.pb.req) := by
  have hyes : underran s = true := decide_eq_true h
  rw [endRender, if_pos hyes]

theorem exec_rend_of_ready {s : State} {c : Nat} (hrun : Running s) (hpb : s.cfg.pbCh = some c)
    (hready : RendReady c s) : exec .rend s = .next (endRender s) :=
  execRend_eq_next.2 ⟨hrun, c, hpb, hready, rfl⟩

/-- Settles O36: with enough samples `REND` leaves `rendered s` and raises nothing (`endRender_of_enough`), and its output
holds no silence (`outputBlock_of_enough`). -/
theorem rendOutputsFromFront : Obligations.RendOutputsFromFront := by
  intro s c hrun hpb hready henough
  refine ⟨rendered s, ?_, outputBlock_of_enough henough, outputBlock_length s, rfl, rfl, rfl⟩
  rw [exec_rend_of_ready hrun hpb hready, endRender_of_enough henough]

/-- Settles O37: an underrun adds one event and its count to `rendered s` (`endRender_of_underrun`), and the request reaches
beyond the whole accumulator, which is output (`outputBlock_of_underrun`) and dropped. -/
theorem rendUnderrunFillsWithSilence : Obligations.RendUnderrunFillsWithSilence := by
  intro s c hrun hpb hready hshort
  have hcleared : s.pb.acc.drop s.pb.req = [] := List.drop_of_length_le hshort.le
  refine ⟨_, exec_rend_of_ready hrun hpb hready, ?_⟩
  rw [endRender_of_underrun hshort, State.raise_playbackUnderrun]
  exact ⟨outputBlock_of_underrun hshort, outputBlock_length s, hcleared, rfl, rfl⟩

end Sys2Proof.Machine
end

section
/-! PROOF. Encoding (R61 to R71): the stimulus words are the rows of one table, so `decodeStim` and `encode` are inverse on
them; a byte on the wire is decoded by the link context. -/

namespace Sys2Proof

/-! ## Words and their fields -/

theorem bitVec_append_inj {v w : Nat} {x x' : BitVec v} {y y' : BitVec w} : x ++ y = x' ++ y' ↔ x = x' ∧ y = y' := by
  refine ⟨fun h => ⟨?_, ?_⟩, fun ⟨hx, hy⟩ => by rw [hx, hy]⟩
  · simpa only [BitVec.extractLsb'_append_eq_left] using congrArg (BitVec.extractLsb' w v) h
  · simpa only [BitVec.extractLsb'_append_eq_right] using congrArg (BitVec.extractLsb' 0 w) h

theorem stimWord_inj {op op' a a' : BitVec 8} {imm imm' : BitVec 16} :
    stimWord op a imm = stimWord op' a' imm' ↔ op = op' ∧ a = a' ∧ imm = imm' := by
  rw [stimWord, stimWord, bitVec_append_inj, bitVec_append_inj, and_assoc]

@[simp] theorem stimWord_op (op a : BitVec 8) (imm : BitVec 16) : (stimWord op a imm).extractLsb' 24 8 = op := by
  rw [stimWord, BitVec.extractLsb'_append_eq_of_le (by decide)]
  exact BitVec.extractLsb'_append_eq_left

@[simp] theorem stimWord_a (op a : BitVec 8) (imm : BitVec 16) : (stimWord op a imm).extractLsb' 16 8 = a := by
  rw [stimWord, BitVec.extractLsb'_append_eq_of_le (by decide)]
  exact BitVec.extractLsb'_append_eq_right

@[simp] theorem stimWord_imm (op a : BitVec 8) (imm : BitVec 16) : (stimWord op a imm).extractLsb' 0 16 = imm :=
  BitVec.extractLsb'_append_eq_right

@[simp] theorem stimWord_opA (op a : BitVec 8) (imm : BitVec 16) : (stimWord op a imm).extractLsb' 16 16 = op ++ a :=
  BitVec.extractLsb'_append_eq_left

@[simp] theorem stimWord_getLsbD_zero (op a : BitVec 8) (imm : BitVec 16) :
    (stimWord op a imm).getLsbD 0 = imm.getLsbD 0 := by
  rw [stimWord, BitVec.getLsbD_append, if_pos (by decide)]

/-- A field inside the immediate. -/
theorem stimWord_extract_imm (op a : BitVec 8) (imm : BitVec 16) {start len : Nat} (h : start + len ≤ 16) :
    (stimWord op a imm).extractLsb' start len = imm.extractLsb' start len :=
  BitVec.extractLsb'_append_eq_of_add_le h

theorem exists_stimWord (w : BitVec 32) : ∃ op a imm, w = stimWord op a imm := by
  refine ⟨w.extractLsb' 24 8, w.extractLsb' 16 8, w.extractLsb' 0 16, ?_⟩
  have hopA : w.extractLsb' 24 8 ++ w.extractLsb' 16 8 = w.extractLsb' 16 16 :=
    BitVec.extractLsb'_append_extractLsb'_eq_extractLsb' rfl
  rw [stimWord, hopA]
  exact (BitVec.extractLsb'_append_extractLsb' (w := 16) (len := 16)).symm

/-- The must-be-zero bits of `RXB` and `RESET` are all but the `k` low bits of the immediate. -/
theorem eq_zero_append_iff {k len : Nat} {x : BitVec (len + k)} {y : BitVec k} :
    x = (0 : BitVec len) ++ y ↔ x.extractLsb' k len = 0 ∧ x.extractLsb' 0 k = y := by
  rw [← bitVec_append_inj, BitVec.extractLsb'_append_extractLsb']

/-! ## The table of stimulus words -/

/-- The rows of R66 in the format of R68: the fields `op`, `a`, `imm` of a word that is not reserved (R71), and the operation
it stands for. -/
inductive StimRow : BitVec 8 → BitVec 8 → BitVec 16 → Instr → Prop where
  | rxb (imm : BitVec 16) (hz : imm.extractLsb' 8 8 = 0) : StimRow 0x01 0 imm (.rxb (imm.extractLsb' 0 8))
  | tmo : StimRow 0x02 0 0 .tmo
  | fetch : StimRow 0x10 0 0 .fetch
  | push : StimRow 0x11 0 0 .push
  | pop (a : BitVec 8) : StimRow 0x20 a 0 (.pop a.toNat)
  | render (imm : BitVec 16) : StimRow 0x21 0 imm (.render imm.toNat)
  | rbegin (imm : BitVec 16) : StimRow 0x22 0 imm (.rbegin imm.toNat)
  | rpop : StimRow 0x23 0 0 .rpop
  | rend : StimRow 0x24 0 0 .rend
  | stop : StimRow 0x30 0 0 .stop
  | restart : StimRow 0x31 0 0 .restart
  | reset (imm : BitVec 16) (hz : imm.extractLsb' 1 15 = 0) : StimRow 0x3F 0 imm (.reset (imm.getLsbD 0))

theorem unlessReserved_eq_ok {w : BitVec 32} {mbz : Bool} {i j : Instr} :
    unlessReserved w mbz i = .ok j ↔ mbz = true ∧ i = j := by
  cases mbz <;> simp [unlessReserved]

theorem decodeStim_of_row {op a : BitVec 8} {imm : BitVec 16} {i : Instr} (h : StimRow op a imm i) :
    decodeStim (stimWord op a imm) = .ok i := by
  cases h with
  | rxb imm hz => simp [decodeStim, unlessReserved, stimWord_extract_imm, hz]
  | reset imm hz => simp [decodeStim, unlessReserved, stimWord_extract_imm, hz, -BitVec.getLsbD_eq_getElem]
  | _ => simp [decodeStim, unlessReserved]

/-- A word is of the row tried first, or is left to the rows tried after it. -/
theorem row_or_rest {op k : BitVec 8} {w : BitVec 32} {mbz : Bool} {i j : Instr} {rest : Decoded}
    (h : (if op = k then unlessReserved w mbz i else rest) = .ok j) : op = k ∧ mbz = true ∧ i = j ∨ rest = .ok j := by
  split at h
  · next hop => exact .inl ⟨hop, unlessReserved_eq_ok.1 h⟩
  · exact .inr h

theorem row_of_decodeStim {op a : BitVec 8} {imm : BitVec 16} {i : Instr} (h : decodeStim (stimWord op a imm) = .ok i) :
    StimRow op a imm i := by
  have h8 : (stimWord op a imm).extractLsb' 8 8 = imm.extractLsb' 8 8 := stimWord_extract_imm op a imm (by decide)
  have h0 : (stimWord op a imm).extractLsb' 0 8 = imm.extractLsb' 0 8 := stimWord_extract_imm op a imm (by decide)
  have h1 : (stimWord op a imm).extractLsb' 1 15 = imm.extractLsb' 1 15 := stimWord_extract_imm op a imm (by decide)
  have both {p q : Prop} [Decidable p] [Decidable q] : (decide p && decide q) = true → p ∧ q := by simp
  simp only [decodeStim, stimWord_op, stimWord_a, stimWord_imm, stimWord_getLsbD_zero, h8, h0, h1] at h
  rcases row_or_rest h with ⟨rfl, hz, rfl⟩ | h
  · obtain ⟨rfl, hlow⟩ := both hz
    exact .rxb imm hlow
  rcases row_or_rest h with ⟨rfl, hz, rfl⟩ | h
  · obtain ⟨rfl, rfl⟩ := both hz
    exact .tmo
  rcases row_or_rest h with ⟨rfl, hz, rfl⟩ | h
  · obtain ⟨rfl, rfl⟩ := both hz
    exact .fetch
  rcases row_or_rest h with ⟨rfl, hz, rfl⟩ | h
  · obtain ⟨rfl, rfl⟩ := both hz
    exact .push
  rcases row_or_rest h with ⟨rfl, hz, rfl⟩ | h
  · obtain rfl := of_decide_eq_true hz
    exact .pop a
  rcases row_or_rest h with ⟨rfl, hz, rfl⟩ | h
  · obtain rfl := of_decide_eq_true hz
    exact .render imm
  rcases row_or_rest h with ⟨rfl, hz, rfl⟩ | h
  · obtain rfl := of_decide_eq_true hz
    exact .rbegin imm
  rcases row_or_rest h with ⟨rfl, hz, rfl⟩ | h
  · obtain ⟨rfl, rfl⟩ := both hz
    exact .rpop
  rcases row_or_rest h with ⟨rfl, hz, rfl⟩ | h
  · obtain ⟨rfl, rfl⟩ := both hz
    exact .rend
  rcases row_or_rest h with ⟨rfl, hz, rfl⟩ | h
  · obtain ⟨rfl, rfl⟩ := both hz
    exact .stop
  rcases row_or_rest h with ⟨rfl, hz, rfl⟩ | h
  · obtain ⟨rfl, rfl⟩ := both hz
    exact .restart
  rcases row_or_rest h with ⟨rfl, hz, rfl⟩ | h
  · obtain ⟨rfl, hlow⟩ := both hz
    exact .reset imm hlow
  cases h

theorem decodeStim_eq_ok_iff {op a : BitVec 8} {imm : BitVec 16} {i : Instr} :
    decodeStim (stimWord op a imm) = .ok i ↔ StimRow op a imm i :=
  ⟨row_of_decodeStim, decodeStim_of_row⟩

/-! ## One meaning for each word (R68, R69) -/

/-- `RXB` and `RESET` take their operand from the low bits of the immediate. -/
theorem encode_of_row {op a : BitVec 8} {imm : BitVec 16} {i : Instr} (h : StimRow op a imm i) (x : LinkCtx) :
    encode x i = .stim (stimWord op a imm) ∧ i.WellFormed = true := by
  cases h with
  | rxb imm hz => 
    have himm := (eq_zero_append_iff (k := 8) (len := 8) (x := imm)).2 ⟨hz, rfl⟩
    exact ⟨congrArg (fun y => Input.stim (stimWord 0x01 0 y)) himm.symm, rfl⟩
  | reset imm hz =>
    have hbit : imm.extractLsb' 0 1 = BitVec.ofBool (imm.getLsbD 0) := by
      ext i hi
      simp [Nat.lt_one_iff.1 hi]
    have himm := (eq_zero_append_iff (k := 1) (len := 15) (x := imm)).2 ⟨hz, hbit⟩
    exact ⟨congrArg (fun y => Input.stim (stimWord 0x3F 0 y)) himm.symm, rfl⟩
  | pop a => simp [encode, Instr.WellFormed, a.isLt]
  | render | rbegin => simp [encode, Instr.WellFormed, imm.isLt]
  | _ => exact ⟨rfl, rfl⟩

/-- Settles O2: a word that decodes is a row of the table (`row_of_decodeStim`), and the row's operation is encoded to that
word (`encode_of_row`). -/
theorem stimulusWordHasOneMeaning : Obligations.StimulusWordHasOneMeaning := by
  intro x w i h
  obtain ⟨op, a, imm, rfl⟩ := exists_stimWord w
  exact encode_of_row (row_of_decodeStim h) x

/-- The fields of a word without its `k` low bits. -/
theorem stimWord_extract_high (op a : BitVec 8) (imm : BitVec 16) {k len : Nat} (h : k + len = 16) :
    (stimWord op a imm).extractLsb' k (8 + 8 + len) = op ++ a ++ imm.extractLsb' k len := by
  rw [← stimWord_opA op a imm, ← stimWord_extract_imm op a imm h.le]
  exact (BitVec.extractLsb'_append_extractLsb'_eq_extractLsb' h.symm).symm

theorem exists_row_iff {op a : BitVec 8} {imm : BitVec 16} : (∃ i, StimRow op a imm i) ↔
    (op = 0x01 ∧ a = 0 ∧ imm.extractLsb' 8 8 = 0) ∨ (op = 0x02 ∧ a = 0 ∧ imm = 0) ∨ (op = 0x10 ∧ a = 0 ∧ imm = 0) ∨
    (op = 0x11 ∧ a = 0 ∧ imm = 0) ∨ (op = 0x20 ∧ imm = 0) ∨ (op = 0x21 ∧ a = 0) ∨ (op = 0x22 ∧ a = 0) ∨
    (op = 0x23 ∧ a = 0 ∧ imm = 0) ∨ (op = 0x24 ∧ a = 0 ∧ imm = 0) ∨ (op = 0x30 ∧ a = 0 ∧ imm = 0) ∨
    (op = 0x31 ∧ a = 0 ∧ imm = 0) ∨ (op = 0x3F ∧ a = 0 ∧ imm.extractLsb' 1 15 = 0) := by
  constructor
  · rintro ⟨i, hrow⟩
    cases hrow with
    | rxb imm hz | reset imm hz => simp [hz]
    | _ => simp
  · rintro (⟨rfl, rfl, hz⟩ | ⟨rfl, rfl, rfl⟩ | ⟨rfl, rfl, rfl⟩ | ⟨rfl, rfl, rfl⟩ | ⟨rfl, rfl⟩ | ⟨rfl, rfl⟩ | ⟨rfl, rfl⟩ |
      ⟨rfl, rfl, rfl⟩ | ⟨rfl, rfl, rfl⟩ | ⟨rfl, rfl, rfl⟩ | ⟨rfl, rfl, rfl⟩ | ⟨rfl, rfl, hz⟩)
    exacts [⟨_, .rxb imm hz⟩, ⟨_, .tmo⟩, ⟨_, .fetch⟩, ⟨_, .push⟩, ⟨_, .pop a⟩, ⟨_, .render imm⟩, ⟨_, .rbegin imm⟩,
      ⟨_, .rpop⟩, ⟨_, .rend⟩, ⟨_, .stop⟩, ⟨_, .restart⟩, ⟨_, .reset imm hz⟩]

/-- Settles O3: the words that decode are the rows of the table (`decodeStim_eq_ok_iff`), and each pattern of the statement
is one row's fields put together. -/
theorem reservedWordsAreExactlyTheRest : Obligations.ReservedWordsAreExactlyTheRest := by
  intro w
  obtain ⟨op, a, imm, rfl⟩ := exists_stimWord w
  have opWord {k : BitVec 8} : stimWord op a imm = stimWord k 0 0 ↔ op = k ∧ a = 0 ∧ imm = 0 := stimWord_inj
  have opA {k : BitVec 8} : op ++ a = k ++ (0 : BitVec 8) ↔ op = k ∧ a = 0 := bitVec_append_inj
  have high {k : BitVec 8} {n : Nat} {y : BitVec n} : op ++ a ++ y = k ++ (0 : BitVec 8) ++ (0 : BitVec n) ↔
      op = k ∧ a = 0 ∧ y = 0 := by
    rw [bitVec_append_inj, bitVec_append_inj, and_assoc]
  have hrxb : (stimWord op a imm).extractLsb' 8 24 = op ++ a ++ imm.extractLsb' 8 8 :=
    stimWord_extract_high op a imm (k := 8) (len := 8) rfl
  have hreset : (stimWord op a imm).extractLsb' 1 31 = op ++ a ++ imm.extractLsb' 1 15 :=
    stimWord_extract_high op a imm (k := 1) (len := 15) rfl
  simp only [decodeStim_eq_ok_iff, exists_row_iff, hrxb, hreset, stimWord_op, stimWord_imm, stimWord_opA]
  exact or_congr high.symm (or_congr opWord.symm (or_congr opWord.symm (or_congr opWord.symm (or_congr .rfl
    (or_congr opA.symm (or_congr opA.symm (or_congr opWord.symm (or_congr opWord.symm (or_congr opWord.symm
      (or_congr opWord.symm high.symm))))))))))

/-- Settles O4, by evaluating the decoder on each of the eight words. -/
theorem scriptWordsDecode : Obligations.ScriptWordsDecode := by
  unfold Obligations.ScriptWordsDecode
  decide

/-! ## Decoding an encoding (R61 to R67) -/

theorem stimRow_rxb (b : Byte) : StimRow 0x01 0 ((0 : BitVec 8) ++ b) (.rxb b) := by
  have hrow := StimRow.rxb ((0 : BitVec 8) ++ b) BitVec.extractLsb'_append_eq_left
  rwa [BitVec.extractLsb'_append_eq_right] at hrow

theorem stimRow_reset (l : Bool) : StimRow 0x3F 0 ((0 : BitVec 15) ++ BitVec.ofBool l) (.reset l) := by
  have hrow := StimRow.reset ((0 : BitVec 15) ++ BitVec.ofBool l) BitVec.extractLsb'_append_eq_left
  cases l <;> exact hrow

theorem stimRow_pop {c : Nat} (h : c < 2 ^ 8) : StimRow 0x20 (BitVec.ofNat 8 c) 0 (.pop c) := by
  simpa only [BitVec.toNat_ofNat, Nat.mod_eq_of_lt h] using StimRow.pop (BitVec.ofNat 8 c)

theorem stimRow_render {n : Nat} (h : n < 2 ^ 16) : StimRow 0x21 0 (BitVec.ofNat 16 n) (.render n) := by
  simpa only [BitVec.toNat_ofNat, Nat.mod_eq_of_lt h] using StimRow.render (BitVec.ofNat 16 n)

theorem stimRow_rbegin {n : Nat} (h : n < 2 ^ 16) : StimRow 0x22 0 (BitVec.ofNat 16 n) (.rbegin n) := by
  simpa only [BitVec.toNat_ofNat, Nat.mod_eq_of_lt h] using StimRow.rbegin (BitVec.ofNat 16 n)

theorem decodeLink_of_sof_fits {x : LinkCtx} {o b : Byte} (h : Instr.fits x (.sof o b) = true) :
    decodeLink x b = .sof o b := by
  obtain ⟨hphase, rfl, hmatch⟩ := Machine.fits_sof.1 h
  simp [decodeLink, hphase, hmatch]

/-- On an empty window the byte shown as the older one is the register's, whatever the row names (log entry 14). -/
theorem decodeLink_of_skip_fits {x : LinkCtx} {o b : Byte} (h : Instr.fits x (.skip o b) = true) :
    decodeLink x b = .skip (olderAfter x.win) b := by
  obtain ⟨hphase, -, hmatch⟩ := Machine.fits_skip.1 h
  simp [decodeLink, hphase, hmatch]

theorem decodeLink_of_pay_fits {x : LinkCtx} {b : Byte} (h : Instr.fits x (.pay b) = true) : decodeLink x b = .pay b := by
  obtain ⟨hphase, hcnt⟩ := Machine.fits_pay.1 h
  simp [decodeLink, hphase, hcnt]

theorem decodeLink_of_payLast_fits {x : LinkCtx} {b : Byte} (h : Instr.fits x (.payLast b) = true) :
    decodeLink x b = .payLast b := by
  obtain ⟨hphase, hcnt⟩ := Machine.fits_payLast.1 h
  simp [decodeLink, hphase, hcnt]

theorem decodeContainer_append (g : Byte) (v : BitVec 24) : decodeContainer (g ++ v) = .ok (.cont32 g v) := by
  rw [decodeContainer, BitVec.extractLsb'_append_eq_right]
  exact congrArg (fun b => Decoded.ok (.cont32 b v)) BitVec.extractLsb'_append_eq_left

/-- A sample of 24 bits stands in the low bits of its sign extension (R63). -/
theorem extract_signExtend (v : BitVec 24) : (v.signExtend 32).extractLsb' 0 24 = v := by
  ext i hi
  rw [BitVec.getElem_extractLsb', Nat.zero_add, BitVec.getLsbD_signExtend]
  simp [hi, hi.trans (show 24 < 32 by decide)]

theorem decodeSample_signExtend (v : BitVec 24) : decodeSample (v.signExtend 32) = .ok (.samp32 v) := by
  simp [decodeSample, extract_signExtend]

theorem decodeFrame_marker {x : LinkCtx} {p : List Byte} (h : p.length = x.payloadSize) :
    decodeFrame x (x.m0 :: x.m1 :: p) = .ok (.frame p) :=
  if_pos ⟨rfl, rfl, h⟩

theorem decodeGain_of_lt {x : LinkCtx} {g : Nat} (h : g < 2 ^ x.gw) : decodeGain x g = .ok (.gainq g) :=
  if_pos h

theorem decode_encode {x : LinkCtx} {i : Instr} (hwf : i.WellFormed = true) (hfits : i.fits x = true)
    (hskip : ∀ o b, i = .skip o b → x.wcnt = 0 → o = olderAfter x.win) : decode x (encode x i) = .ok i := by
  cases i with
  | rxb b => exact decodeStim_of_row (stimRow_rxb b)
  | tmo => exact decodeStim_of_row .tmo
  | fetch => exact decodeStim_of_row .fetch
  | push => exact decodeStim_of_row .push
  | pop c => exact decodeStim_of_row (stimRow_pop (of_decide_eq_true hwf))
  | render n => exact decodeStim_of_row (stimRow_render (of_decide_eq_true hwf))
  | rbegin n => exact decodeStim_of_row (stimRow_rbegin (of_decide_eq_true hwf))
  | rpop => exact decodeStim_of_row .rpop
  | rend => exact decodeStim_of_row .rend
  | stop => exact decodeStim_of_row .stop
  | restart => exact decodeStim_of_row .restart
  | reset l => exact decodeStim_of_row (stimRow_reset l)
  | sof o b => exact congrArg Decoded.ok (decodeLink_of_sof_fits hfits)
  | skip o b =>
    obtain ⟨-, holder, -⟩ := Machine.fits_skip.1 hfits
    have ho : o = olderAfter x.win := holder.elim (hskip o b rfl) id
    exact congrArg Decoded.ok (ho ▸ decodeLink_of_skip_fits hfits)
  | pay b => exact congrArg Decoded.ok (decodeLink_of_pay_fits hfits)
  | payLast b => exact congrArg Decoded.ok (decodeLink_of_payLast_fits hfits)
  | cont32 g v => exact decodeContainer_append g v
  | samp32 v => exact decodeSample_signExtend v
  | frame p => exact decodeFrame_marker (of_decide_eq_true hfits)
  | gainq g => exact decodeGain_of_lt (of_decide_eq_true hfits)

/-- Settles O1: `decode_encode` goes through the rows; of a `SKIP` on an empty window only the older byte is not decoded
(`decodeLink_of_skip_fits`). -/
theorem decodeOfEncodeIsIdentity : Obligations.DecodeOfEncodeIsIdentity :=
  ⟨fun _ _ => decode_encode, fun _ _ _ hfits _ => congrArg Decoded.ok (decodeLink_of_skip_fits hfits),
    fun _ _ => ⟨rfl, rfl, rfl⟩⟩

end Sys2Proof
end

section
/-! PROOF. The step (R35, R50, R71): which input it takes from the schedule or from the free choice, and what taking an input
comes to. -/

namespace Sys2Proof.Machine

/-! ## Taking an input -/

theorem runInput_of_decode {u : Input} {s : State} {i : Instr} (h : decode s.linkCtx u = .ok i) :
    runInput u s = exec i s := by
  cases u with
  | config c => cases h
  | _ => simp only [runInput, fetchInput, h]

theorem runInput_of_reject {u : Input} {s : State} {r : Reject} (h : decode s.linkCtx u = .reject r)
    (hconfig : ∀ c, u ≠ .config c) : runInput u s = .refused (rejection r) := by
  cases u with
  | config c => exact absurd rfl (hconfig c)
  | _ => simp only [runInput, fetchInput, h]

/-- Only a stimulus word is rejected as reserved. -/
theorem rejection_eq_malformedInput {x : LinkCtx} {u : Input} {r : Reject} (hadm : u.admissible = true)
    (h : decode x u = .reject r) : rejection r = .malformedInput := by
  cases u with
  | stim w =>
    have hw : decodeStim w = .reject r := h
    simp [Input.admissible, hw] at hadm
  | frame bytes =>
    simp only [decode, decodeFrame] at h
    split at h
    · split at h <;> cases h
      rfl
    · cases h
      rfl
  | sample w =>
    simp only [decode, decodeSample] at h
    split at h <;> cases h
    rfl
  | gain w =>
    simp only [decode, decodeGain] at h
    split at h <;> cases h
    rfl
  | config c =>
    cases h
    rfl
  | link | container | renderReq | renderCall | popReq => cases h

/-! ## The schedule -/

theorem step_of_script {s : State} {u : Input} {rest : List Input} (h : s.env.script = u :: rest) :
    step s = if s.scriptAdmissible then runInput u (s.withScript rest) else .refused .reservedInScript := by
  rw [step, h]

theorem step_of_admissible_script {s : State} {u : Input} {rest : List Input} (h : s.env.script = u :: rest)
    (hadm : ∀ v ∈ u :: rest, v.admissible = true) : step s = runInput u (s.withScript rest) := by
  have hall : s.scriptAdmissible = true := by
    rw [State.scriptAdmissible, h]
    exact List.all_eq_true.2 hadm
  rw [step_of_script h, if_pos hall]

theorem step_of_freeChoice {s : State} {u : Input} (h : s.env.script = []) (hu : freeChoice s = some u) :
    step s = freeStep u s.ticked := by
  rw [step, h]
  simp only [hu]

theorem step_of_no_freeChoice {s : State} (h : s.env.script = []) (hu : freeChoice s = none) :
    step s = .next s.ticked := by
  rw [step, h]
  simp only [hu]

/-- Settles O5, the decoder's three answers: an instruction (`runInput_of_decode`), a configuration, which is presented, and
a rejection (`runInput_of_reject`), which the absence of reserved words makes one of a malformed input. -/
theorem stepRunsDecodedInstruction : Obligations.StepRunsDecodedInstruction := by
  intro s u rest hscript hadm
  rw [step_of_admissible_script hscript hadm]
  refine ⟨fun i hi => ?_, fun c hc => ?_, fun r hr hconfig => ?_⟩
  · exact runInput_of_decode (s := s.withScript rest) hi
  · subst hc
    rfl
  · rw [runInput_of_reject (s := s.withScript rest) hr hconfig,
      rejection_eq_malformedInput (hadm u List.mem_cons_self) hr]

/-- Settles O7: the reserved word makes the schedule inadmissible, whatever stands at its head. -/
theorem reservedWordRefusesWholeScript : Obligations.ReservedWordRefusesWholeScript := by
  intro s w q hmem hres
  have hadm : s.scriptAdmissible = false := by
    refine List.all_eq_false.2 ⟨_, hmem, ?_⟩
    simp [Input.admissible, hres]
  cases hscript : s.env.script with
  | nil => simp [hscript] at hmem
  | cons u rest => rw [step_of_script hscript, if_neg (by simp [hadm])]

/-! ## Refusals that leave the run its meaning (R6, R230) -/

/-- If the operation is refused, then not for the configuration. -/
def ConfigAccepted (r : Result) : Prop := ∀ q, r = .refused q → q.endsRun = false

theorem configAccepted_next (t : State) : ConfigAccepted (.next t) := fun _ h => nomatch h

theorem configAccepted_refused {q : Refusal} (h : q.endsRun = false) : ConfigAccepted (.refused q) := by
  intro q' hq
  cases hq
  exact h

theorem configAccepted_whenRunning {s : State} {k : Result} (hlegal : s.cfg.legal = true) (hstable : InputsStable s)
    (hk : ConfigAccepted k) : ConfigAccepted (whenRunning s k) := by
  intro q hq
  rcases whenRunning_eq_refused hlegal hstable hq with rfl | h
  · rfl
  · exact hk q h

theorem configAccepted_require {b : Bool} {p : Refusal} {k : Result} (hp : p.endsRun = false)
    (hk : b = true → ConfigAccepted k) : ConfigAccepted (require b p k) := by
  cases b with
  | false => exact configAccepted_refused hp
  | true => exact hk rfl

theorem configAccepted_withPlayback {s : State} {k : Nat → Result} (hk : ∀ c, ConfigAccepted (k c)) :
    ConfigAccepted (withPlayback s k) := by
  intro q hq
  rcases withPlayback_eq_refused hq with rfl | ⟨c, -, h⟩
  · rfl
  · exact hk c q h

theorem configAccepted_readByte (b : Byte) (s : State) : ConfigAccepted (readByte b s) := by
  unfold readByte
  split
  · split <;> exact configAccepted_next _
  · split
    · exact configAccepted_next _
    · split
      · exact configAccepted_next _
      · exact configAccepted_refused rfl
  all_goals exact configAccepted_refused rfl

theorem configAccepted_readBytes : ∀ (l : List Byte) (s : State), ConfigAccepted (readBytes l s)
  | [], s => configAccepted_next s
  | b :: l, s => by
    rw [readBytes]
    cases h : readByte b s with
    | next t => exact configAccepted_readBytes l t
    | fault f => cases f
    | refused q => exact configAccepted_refused (configAccepted_readByte b s q h)

theorem configAccepted_readTimeout (s : State) : ConfigAccepted (readTimeout s) := by
  unfold readTimeout
  split
  case h_1 | h_2 => exact configAccepted_next _
  case h_3 | h_4 | h_5 => exact configAccepted_refused rfl

theorem exec_configAccepted (i : Instr) {s : State} (hlegal : s.cfg.legal = true) (hstable : InputsStable s) :
    ConfigAccepted (exec i s) := by
  have running {k : Result} : ConfigAccepted k → ConfigAccepted (whenRunning s k) :=
    configAccepted_whenRunning hlegal hstable
  have row {b : Bool} {p : Refusal} {t : State} (hp : p.endsRun = false) :
      ConfigAccepted (whenRunning s (require b p (.next t))) :=
    running (configAccepted_require hp fun _ => configAccepted_next t)
  cases i with
  | rxb b => exact running (configAccepted_readByte b s)
  | tmo => exact running (configAccepted_readTimeout s)
  | fetch =>
    refine running (configAccepted_require rfl fun _ => ?_)
    split
    · exact configAccepted_next _
    · exact configAccepted_refused rfl
  | push | restart | sof | skip | pay | payLast => exact row rfl
  | pop c =>
    exact running (configAccepted_require rfl fun _ => configAccepted_require rfl fun _ => configAccepted_next _)
  | render n =>
    exact running (configAccepted_withPlayback fun c => configAccepted_require rfl fun _ =>
      configAccepted_require rfl fun _ => configAccepted_next _)
  | rbegin | rpop | rend =>
    exact running (configAccepted_withPlayback fun c => configAccepted_require rfl fun _ => configAccepted_next _)
  | stop => exact running (configAccepted_next _)
  | reset l =>
    have hin : s.env.cfgIn.legal = true := hstable.2 ▸ hlegal
    rw [show exec (.reset l) s = _ from require_of_true hin _ _]
    exact configAccepted_next _
  | cont32 g v => exact running (configAccepted_readBytes _ s)
  | frame p => exact running (configAccepted_require rfl fun _ => configAccepted_readBytes _ s)
  | samp32 | gainq => exact configAccepted_next _

theorem rejection_not_endsRun (r : Reject) : (rejection r).endsRun = false := by cases r <;> rfl

theorem runInput_configAccepted (u : Input) {s : State} (hlegal : s.cfg.legal = true) (hstable : InputsStable s) :
    ConfigAccepted (runInput u s) := by
  by_cases hconfig : ∃ c, u = .config c
  · obtain ⟨c, rfl⟩ := hconfig
    exact configAccepted_next _
  · cases hd : decode s.linkCtx u with
    | ok i =>
      rw [runInput_of_decode hd]
      exact exec_configAccepted i hlegal hstable
    | reject r =>
      rw [runInput_of_reject hd (not_exists.1 hconfig)]
      exact configAccepted_refused (rejection_not_endsRun r)

/-! ## The free choice (R50, R156, R196) -/

theorem endsRun_iff {q : Refusal} : q.endsRun = true ↔ q = .illegalConfig ∨ q = .configChanged := by
  simp [Refusal.endsRun]

theorem freeStep_of_next {u : Input} {s t : State} (h : runInput u s = .next t) : freeStep u s = .next t := by
  simp only [freeStep, h]

theorem freeStep_of_refused {u : Input} {s : State} {q : Refusal} (h : runInput u s = .refused q) :
    freeStep u s = if q.endsRun then .refused q else .next s := by
  simp only [freeStep, h]

theorem freeStep_of_configAccepted {u : Input} {s : State} (h : ConfigAccepted (runInput u s)) :
    ∃ t, freeStep u s = .next t := by
  cases hr : runInput u s with
  | next t => exact ⟨t, freeStep_of_next hr⟩
  | fault f => cases f
  | refused q => exact ⟨s, by rw [freeStep_of_refused hr, h q hr, if_neg Bool.false_ne_true]⟩

theorem freeChoice_of_outsideDone {s : State} (hdone : s.env.outsideDone = true)
    (hext : (Config.freeInput s.env.tick).isInternal = false) : freeChoice s = none := by
  simp [freeChoice, hdone, hext]

/-- Settles O6: the step is `freeStep` of the free choice where there is one, and a tick where there is none; under a legal
configuration with stable inputs nothing is refused for the configuration (`runInput_configAccepted`). -/
theorem freeStepRunsWhatIsEnabled : Obligations.FreeStepRunsWhatIsEnabled := by
  intro s hscript
  refine ⟨fun hdone hext => step_of_no_freeChoice hscript (freeChoice_of_outsideDone hdone hext), fun hchosen => ?_,
    fun hlegal hstable => ?_⟩
  · rw [step_of_freeChoice hscript (freeChoice_eq_some.2 ⟨rfl, hchosen⟩)]
    refine ⟨fun t ht => freeStep_of_next ht, fun q hq => ?_⟩
    rw [freeStep_of_refused hq]
    exact ⟨fun h => if_pos (endsRun_iff.2 h), fun h1 h2 => if_neg fun h => (endsRun_iff.1 h).elim h1 h2⟩
  · cases hc : freeChoice s with
    | none => exact ⟨_, step_of_no_freeChoice hscript hc⟩
    | some u =>
      rw [step_of_freeChoice hscript hc]
      exact freeStep_of_configAccepted (runInput_configAccepted u hlegal hstable)

end Sys2Proof.Machine
end

section
/-! PROOF. Corrected samples (R102, R103, R105): they are sign extensions of 24 bits, to which the garbage byte of the
container does not belong. -/

namespace Sys2Proof.Machine

theorem inInt24_correctSample (x : Sample) : inInt24 (correctSample x) := by
  rw [inInt24, correctSample_eq_signExtend, BitVec.toInt_signExtend_of_le (by decide)]
  have hlo := BitVec.le_toInt (x.extractLsb' 0 24)
  have hhi := BitVec.toInt_lt (x := x.extractLsb' 0 24)
  simp only [int24Min, int24Max]
  omega

theorem correctSample_correctSample (x : Sample) : correctSample (correctSample x) = correctSample x := by
  rw [correctSample_eq_signExtend x, correctSample_eq_signExtend, extract_signExtend]

theorem correctSample_congr {x y : Sample} (h : x.extractLsb' 0 24 = y.extractLsb' 0 24) :
    correctSample x = correctSample y := by
  rw [correctSample_eq_signExtend, correctSample_eq_signExtend, h]

/-- Settles O23: correcting is sign extension from 24 bits (`correctSample_eq_signExtend`), whose values are the int24 range
and whose low 24 bits are the value extended. -/
theorem correctedSampleIsInt24AndStable : Obligations.CorrectedSampleIsInt24AndStable :=
  fun x _ => ⟨inInt24_correctSample x, correctSample_correctSample x, correctSample_congr⟩

/-! ## From the wire bytes (R103) -/

/-- The 24 low bits of a container, by the three bytes received first. -/
theorem containerOf_low (b0 b1 b2 b3 : Byte) : (containerOf b0 b1 b2 b3).extractLsb' 0 24 =
    BitVec.ofNat 24 (b0.toNat + 2 ^ 8 * b1.toNat + 2 ^ 16 * b2.toNat) := by
  refine BitVec.eq_of_toNat_eq ?_
  rw [BitVec.extractLsb'_toNat, Nat.shiftRight_zero, containerOf_toNat, BitVec.toNat_ofNat]
  omega

theorem correctSample_containerOf_toInt (b0 b1 b2 b3 : Byte) : (correctSample (containerOf b0 b1 b2 b3)).toInt =
    (b0.toNat : Int) + 256 * b1.toNat + 65536 * (b2.toNat % 128 : Nat) - 8388608 * (b2.toNat / 128 : Nat) := by
  have h0 := b0.isLt
  have h1 := b1.isLt
  have h2 := b2.isLt
  rw [correctSample_eq_signExtend, BitVec.toInt_signExtend_of_le (by decide), containerOf_low, BitVec.toInt_eq_toNat_cond,
    BitVec.toNat_ofNat]
  split <;> omega

/-- Settles O24, for one container (`correctSample_containerOf_toInt`). -/
theorem sampleFromWireBytes : Obligations.SampleFromWireBytes :=
  fun b0 b1 b2 b3 => congrArg (fun v => [v]) (correctSample_containerOf_toInt b0 b1 b2 b3)

/-! ## The garbage byte (R102, R105) -/

theorem correctSample_garbage (b0 b1 b2 g g' : Byte) :
    correctSample (containerOf b0 b1 b2 g) = correctSample (containerOf b0 b1 b2 g') :=
  correctSample_congr (by rw [containerOf_low, containerOf_low])

theorem length_correctBlock_decodePayload (f : Frame) : (correctBlock (decodePayload f)).length = f.length / 4 := by
  rw [correctBlock, List.length_map, decodePayload_length]

/-- Settles O25: the samples at one place come from bytes that agree but for the garbage byte, which does not reach them
(`correctSample_garbage`). -/
theorem garbageBytesDoNotMatter : Obligations.GarbageBytesDoNotMatter := by
  intro f g hlen hagree
  have hbyte {j : Nat} (hj : j % 4 ≠ 3) : f.getD j 0 = g.getD j 0 := by
    rw [List.getD_eq_getElem?_getD, List.getD_eq_getElem?_getD, hagree j hj]
  refine List.ext_getElem? fun i => ?_
  rw [correctBlock, correctBlock, List.getElem?_map, List.getElem?_map]
  by_cases hi : i < f.length / 4
  · rw [decodePayload_getElem? hi, decodePayload_getElem? (hlen ▸ hi), hbyte (j := 4 * i) (by omega),
      hbyte (j := 4 * i + 1) (by omega), hbyte (j := 4 * i + 2) (by omega)]
    exact congrArg some (correctSample_garbage _ _ _ _ _)
  · rw [List.getElem?_eq_none (by rw [decodePayload_length]; exact Nat.le_of_not_lt hi),
      List.getElem?_eq_none (by rw [decodePayload_length, ← hlen]; exact Nat.le_of_not_lt hi)]

theorem blockOk_of_frame {c : Config} {f : Frame} (h : f.length = c.payloadSize) :
    BlockOk c (correctBlock (decodePayload f)) := by
  refine ⟨by rw [length_correctBlock_decodePayload, h, Config.ns], fun x hx => ?_⟩
  obtain ⟨raw, -, rfl⟩ := List.mem_map.1 hx
  exact inInt24_correctSample raw

end Sys2Proof.Machine
end

section
/-! PROOF. The gain stage (R138 to R142): the rounding function by the floor and whether it goes up from there, its laws, and
what they make of the clamp. -/

namespace Sys2Proof.Machine

/-! ## The rounding function (R141) -/

/-- Whether the rounding function takes the integer above `q / 2^gf` where `q / 2^gf` is none. -/
def roundsUp (n : Narrow) (q : Int) (gf : Nat) : Bool :=
  match n with
  | .trunc => decide (q < 0)
  | .free k => cutGoesUp (Config.narrowCut k (q / 2 ^ gf)) (q % 2 ^ gf).toNat gf

/-- The scale of a number with `gf` fraction bits. -/
theorem scale_pos (gf : Nat) : (0 : Int) < 2 ^ gf := Int.pow_pos (by decide)

theorem narrowTo_eq (n : Narrow) (q : Int) (gf : Nat) : narrowTo n q gf =
    if q % 2 ^ gf ≠ 0 ∧ roundsUp n q gf = true then q / 2 ^ gf + 1 else q / 2 ^ gf := by
  have hpos := scale_pos gf
  cases n with
  | trunc =>
    have hsign : Int.sign (2 ^ gf) = 1 := Int.sign_eq_one_of_pos hpos
    simp only [narrowTo, roundsUp, Int.tdiv_eq_ediv, hsign, decide_eq_true_eq, Int.dvd_iff_emod_eq_zero]
    split <;> split <;> omega
  | free k =>
    have hnonneg := Int.emod_nonneg q hpos.ne'
    have hzero : (q % 2 ^ gf).toNat = 0 ↔ q % 2 ^ gf = 0 := by omega
    simp only [narrowTo, roundsUp, hzero]
    by_cases hr : q % 2 ^ gf = 0
    · simp [hr]
    · simp [hr]

theorem narrowTo_bounds (n : Narrow) (q : Int) (gf : Nat) :
    q / 2 ^ gf ≤ narrowTo n q gf ∧ narrowTo n q gf ≤ q / 2 ^ gf + 1 := by
  rw [narrowTo_eq]
  split <;> omega

/-- Between two neighbouring integers a rounding function is a step. -/
theorem roundsUp_mono {n : Narrow} {a b : Int} {gf : Nat} (hab : a ≤ b) (hfloor : a / 2 ^ gf = b / 2 ^ gf)
    (hup : roundsUp n a gf = true) : roundsUp n b gf = true := by
  have hpos := scale_pos gf
  have ha := Int.emod_add_mul_ediv a (2 ^ gf)
  have hb := Int.emod_add_mul_ediv b (2 ^ gf)
  cases n with
  | trunc =>
    have hneg : a < 0 := of_decide_eq_true hup
    have hfloorNeg : b / 2 ^ gf < 0 := hfloor ▸ Int.ediv_neg_of_neg_of_pos hneg hpos
    exact decide_eq_true (Int.lt_of_not_ge fun h => Int.not_le.2 hfloorNeg (Int.ediv_nonneg h hpos.le))
  | free k =>
    have hfrac : (a % 2 ^ gf).toNat ≤ (b % 2 ^ gf).toNat := by
      rw [hfloor] at ha
      omega
    simp only [roundsUp, cutGoesUp, hfloor] at hup ⊢
    have hmul := Nat.mul_le_mul_right (Config.narrowCut k (b / 2 ^ gf)).den hfrac
    split at hup
    · next hincl =>
      rw [if_pos hincl]
      exact decide_eq_true ((of_decide_eq_true hup).trans hmul)
    · next hincl =>
      rw [if_neg hincl]
      exact decide_eq_true ((of_decide_eq_true hup).trans_le hmul)

theorem narrowTo_mono (n : Narrow) {a b : Int} (gf : Nat) (hab : a ≤ b) : narrowTo n a gf ≤ narrowTo n b gf := by
  have hpos := scale_pos gf
  have ha := narrowTo_bounds n a gf
  have hb := narrowTo_bounds n b gf
  rcases (Int.ediv_le_ediv hpos hab).lt_or_eq with hlt | hfloor
  · omega
  · have ea := Int.emod_add_mul_ediv a (2 ^ gf)
    have eb := Int.emod_add_mul_ediv b (2 ^ gf)
    have hnonneg := Int.emod_nonneg a hpos.ne'
    rw [narrowTo_eq n a]
    split
    · next hup =>
      have hfrac : b % 2 ^ gf ≠ 0 := by
        rw [hfloor] at ea
        omega
      rw [narrowTo_eq n b, if_pos ⟨hfrac, roundsUp_mono hab hfloor hup.2⟩, hfloor]
    · omega

theorem narrowTo_mul (n : Narrow) (m : Int) (gf : Nat) : narrowTo n (m * 2 ^ gf) gf = m := by
  rw [narrowTo_eq, if_neg (by simp), Int.mul_ediv_cancel _ (scale_pos gf).ne']

theorem narrowTo_error (n : Narrow) (a : Int) (gf : Nat) :
    narrowTo n a gf * 2 ^ gf - a < 2 ^ gf ∧ a - narrowTo n a gf * 2 ^ gf < 2 ^ gf := by
  have hpos := scale_pos gf
  have ha := Int.emod_add_mul_ediv a (2 ^ gf)
  have hlt := Int.emod_lt_of_pos a hpos
  have hnonneg := Int.emod_nonneg a hpos.ne'
  rw [narrowTo_eq]
  split
  · next hup =>
    rw [Int.add_mul, Int.mul_comm (a / _)]
    have := hup.1
    omega
  · rw [Int.mul_comm (a / _)]
    omega

/-- Settles O44, for both forms at once: the floor, and one more where `roundsUp` says so (`narrowTo_eq`). -/
theorem narrowHasItsLaws : Obligations.NarrowHasItsLaws :=
  fun n gf => ⟨fun _ _ => narrowTo_mono n gf, fun m => narrowTo_mul n m gf, fun a => narrowTo_error n a gf⟩

/-! ## The clamp (R140) -/

theorem clamp_bounds {x lo hi : Int} (h : lo ≤ hi) : lo ≤ clamp x lo hi ∧ clamp x lo hi ≤ hi := by
  unfold clamp
  split_ifs <;> omega

theorem clamp_of_mem {x lo hi : Int} (hlo : lo ≤ x) (hhi : x ≤ hi) : clamp x lo hi = x := by
  rw [clamp, if_neg (Int.not_lt.2 hlo), if_neg (Int.not_lt.2 hhi)]

theorem clamp_of_le {x lo hi : Int} (h : x ≤ lo) (hlohi : lo ≤ hi) : clamp x lo hi = lo := by
  unfold clamp
  split_ifs <;> omega

theorem clamp_of_ge {x lo hi : Int} (h : hi ≤ x) (hlohi : lo ≤ hi) : clamp x lo hi = hi := by
  unfold clamp
  split_ifs <;> omega

/-- Clamping before or after the rounding is the same, for the rounding is monotone and keeps the integer bounds. -/
theorem narrowTo_clamp (n : Narrow) (q : Int) {lo hi : Int} (gf : Nat) (h : lo ≤ hi) :
    narrowTo n (clamp q (lo * 2 ^ gf) (hi * 2 ^ gf)) gf = clamp (narrowTo n q gf) lo hi := by
  have hscaled : lo * 2 ^ gf ≤ hi * 2 ^ gf := Int.mul_le_mul_of_nonneg_right h (scale_pos gf).le
  have hlo := narrowTo_mul n lo gf
  have hhi := narrowTo_mul n hi gf
  rcases lt_or_ge q (lo * 2 ^ gf) with hbelow | habove
  · rw [clamp_of_le hbelow.le hscaled, hlo, clamp_of_le (hlo ▸ narrowTo_mono n gf hbelow.le) h]
  · rcases lt_or_ge (hi * 2 ^ gf) q with habove' | hbelow'
    · rw [clamp_of_ge habove'.le hscaled, hhi, clamp_of_ge (hhi ▸ narrowTo_mono n gf habove'.le) h]
    · rw [clamp_of_mem habove hbelow', clamp_of_mem (hlo ▸ narrowTo_mono n gf habove) (hhi ▸ narrowTo_mono n gf hbelow')]

/-! ## The output sample (R142) -/

theorem int24Min_le_int24Max : int24Min ≤ int24Max := by decide

theorem toInt_ofInt_of_int24 {x : Int} (hlo : int24Min ≤ x) (hhi : x ≤ int24Max) : (BitVec.ofInt 32 x).toInt = x := by
  simp only [int24Min, int24Max] at hlo hhi
  exact BitVec.toInt_ofInt_eq_self (by decide) (by omega) (by omega)

theorem gainclip_toInt (c : Config) (x : Sample) :
    (gainclip c x).toInt = clamp (narrowTo c.narrow (x.toInt * c.gain) c.gf) int24Min int24Max := by
  obtain ⟨hlo, hhi⟩ := clamp_bounds (x := narrowTo c.narrow (x.toInt * c.gain) c.gf) int24Min_le_int24Max
  rw [gainclip, gainProduct, clampLo, clampHi, narrowTo_clamp _ _ _ int24Min_le_int24Max, toInt_ofInt_of_int24 hlo hhi]

theorem inInt24_gainclip (c : Config) (x : Sample) : inInt24 (gainclip c x) := by
  rw [inInt24, gainclip_toInt]
  exact clamp_bounds int24Min_le_int24Max

/-- Settles O45: the clamp comes out of the rounding (`narrowTo_clamp`), and what it leaves fits 32 bits. -/
theorem gainClipSaturates : Obligations.GainClipSaturates := fun c x => ⟨gainclip_toInt c x, inInt24_gainclip c x⟩

/-- A factor that is an integer is exact up to the clamp. -/
theorem gainclip_toInt_of_integer {c : Config} {k : Nat} (h : c.gain = k * 2 ^ c.gf) (x : Sample) :
    (gainclip c x).toInt = clamp (x.toInt * k) int24Min int24Max := by
  rw [gainclip_toInt, h, Nat.cast_mul, ← Int.mul_assoc, Nat.cast_pow, Nat.cast_ofNat, narrowTo_mul]

/-- Settles O46: factors 1 and 2 are integers (`gainclip_toInt_of_integer`), so only the clamp is left to act. -/
theorem unityGainIsIdentity : Obligations.UnityGainIsIdentity := by
  refine fun c x => ⟨fun hgain hx => ?_, fun hgain hx => ?_⟩
  · have hone : c.gain = 1 * 2 ^ c.gf := by rw [hgain, Nat.one_mul]
    refine BitVec.eq_of_toInt_eq ?_
    rw [gainclip_toInt_of_integer hone, Nat.cast_one, Int.mul_one, clamp_of_mem hx.1 hx.2]
  · refine BitVec.eq_of_toInt_eq ?_
    rw [gainclip_toInt_of_integer hgain]
    rcases hx with hmax | hmin
    · rw [hmax]
      decide
    · rw [hmin]
      decide

/-- Settles O47: rounding is monotone and keeps 0, and so does the clamp, whose range holds 0. -/
theorem gainKeepsSign : Obligations.GainKeepsSign := by
  intro c x
  have hzero : narrowTo c.narrow 0 c.gf = 0 := by simpa using narrowTo_mul c.narrow 0 c.gf
  have hgain := Int.natCast_nonneg c.gain
  rw [gainclip_toInt]
  refine ⟨fun hx => ?_, fun hx => ?_⟩
  · have hround := narrowTo_mono c.narrow c.gf (Int.mul_nonneg hx hgain)
    rw [hzero] at hround
    unfold clamp int24Min int24Max
    split_ifs <;> omega
  · have hround := narrowTo_mono c.narrow c.gf (Int.mul_nonpos_of_nonpos_of_nonneg hx hgain)
    rw [hzero] at hround
    unfold clamp int24Min int24Max
    split_ifs <;> omega

end Sys2Proof.Machine
end

section
/-! PROOF. The Frame Synchronizer (R67, R81 to R89): what one byte or one timeout does in each state of the Reader, and where
the rows of the link are refused. -/

namespace Sys2Proof.Machine

/-! ## One byte (R81 to R86) -/

theorem readByte_of_match {b : Byte} {s : State} (hseek : s.fs.state = .seeking)
    (hmatch : windowMatches s.fs.win s.fs.wcnt b s.cfg.m0 s.cfg.m1 = true) : readByte b s = .next (takeSof s) :=
  readByte_eq_next.2 (.inl ⟨hseek, hmatch, rfl⟩)

theorem readByte_of_no_match {b : Byte} {s : State} (hseek : s.fs.state = .seeking)
    (hno : windowMatches s.fs.win s.fs.wcnt b s.cfg.m0 s.cfg.m1 = false) : readByte b s = .next (takeSkip b s) :=
  readByte_eq_next.2 (.inr (.inl ⟨hseek, hno, rfl⟩))

theorem readByte_of_pay {b : Byte} {s : State} (hread : s.fs.state = .readingPayload)
    (hcnt : s.fs.cnt + 1 < s.cfg.payloadSize) : readByte b s = .next (takePay b s) :=
  readByte_eq_next.2 (.inr (.inr (.inl ⟨hread, hcnt, rfl⟩)))

theorem readByte_of_payLast {b : Byte} {s : State} (hread : s.fs.state = .readingPayload)
    (hcnt : s.fs.cnt + 1 = s.cfg.payloadSize) : readByte b s = .next (takePayLast b s) :=
  readByte_eq_next.2 (.inr (.inr (.inr ⟨hread, hcnt, rfl⟩)))

theorem windowMatches_of_empty (w : BitVec 16) (b m0 m1 : Byte) : windowMatches w 0 b m0 m1 = false :=
  windowMatches_eq_false_iff.2 fun h => absurd h.1 (by decide)

theorem windowMatches_of_marker {w : BitVec 16} {wcnt : Nat} {b m0 m1 : Byte} (hfill : 1 ≤ wcnt)
    (hmarker : w.extractLsb' 0 8 ++ b = m0 ++ m1) : windowMatches w wcnt b m0 m1 = true :=
  windowMatches_iff.2 ⟨by omega, hmarker⟩

theorem shiftWindow_newer (w : BitVec 16) (b : Byte) : (shiftWindow w b).extractLsb' 0 8 = b :=
  BitVec.extractLsb'_append_eq_right

theorem takePay_eq (b : Byte) (s : State) :
    takePay b s = s.setFs { s.fs with buf := s.fs.buf.set s.fs.cnt b, cnt := s.fs.cnt + 1 } := by
  rw [takePay, memWrite_byte]

/-! ## The last byte hands over the Frame (R86, R113) -/

theorem ingressPush_of_room {s : State} (h : s.iq.length < s.cfg.ingressDepth) (f : Frame) :
    ingressPush f s = { s with iq := s.iq ++ [f] } := by
  rw [ingressPush, pushDrop_of_room h]

theorem ingressPush_of_full {s : State} (h : s.cfg.ingressDepth ≤ s.iq.length) (f : Frame) :
    ingressPush f s = s.raise .ingressFull := by
  rw [ingressPush, pushDrop_of_full h]

/-- The Frame Synchronizer's registers at the end of a payload read. -/
def fsAfterPayload (b : Byte) (s : State) : Fs :=
  { s.fs with buf := s.fs.buf.set s.fs.cnt b, cnt := 0, wcnt := 0, state := fsNext s }

theorem takePayLast_eq (b : Byte) (s : State) :
    takePayLast b s = (ingressPush (completedFrame b s) s).setFs (fsAfterPayload b s) := by
  rw [takePayLast, memWrite_byte]
  rfl

theorem takePayLast_of_room {s : State} (h : s.iq.length < s.cfg.ingressDepth) (b : Byte) :
    takePayLast b s = { s with iq := s.iq ++ [completedFrame b s], fs := fsAfterPayload b s } := by
  rw [takePayLast_eq, ingressPush_of_room h]
  rfl

theorem takePayLast_of_full {s : State} (h : s.cfg.ingressDepth ≤ s.iq.length) (b : Byte) :
    takePayLast b s = { s with iqDropCnt := bump s.cfg s.iqDropCnt, diag := s.diag ++ [.ingressFull],
                               fs := fsAfterPayload b s } := by
  rw [takePayLast_eq, ingressPush_of_full h]
  rfl

theorem fsNext_eq_or (s : State) : fsNext s = .seeking ∨ fsNext s = .stopped := by
  unfold fsNext
  split
  · exact .inr rfl
  · exact .inl rfl

/-! ## The rows of the link, while the machine runs -/

theorem exec_rxb_of_running {s : State} (hrun : Running s) (b : Byte) : exec (.rxb b) s = readByte b s :=
  whenRunning_of_running hrun _

theorem exec_tmo_of_running {s : State} (hrun : Running s) : exec .tmo s = readTimeout s :=
  whenRunning_of_running hrun _

theorem exec_sof_of_match {s : State} {b : Byte} (hrun : Running s) (hseek : s.fs.state = .seeking)
    (hmatch : windowMatches s.fs.win s.fs.wcnt b s.cfg.m0 s.cfg.m1 = true) :
    exec (.sof (olderAfter s.fs.win) b) s = .next (takeSof s) :=
  execSof_eq_next.2 ⟨hrun, fits_sof.2 ⟨phase_eq_seeking.2 hseek, rfl, hmatch⟩, rfl⟩

theorem exec_pay_of_reading {s : State} (hrun : Running s) (hread : s.fs.state = .readingPayload)
    (hcnt : s.fs.cnt + 1 < s.cfg.payloadSize) (b : Byte) : exec (.pay b) s = .next (takePay b s) :=
  execPay_eq_next.2 ⟨hrun, fits_pay.2 ⟨phase_eq_reading.2 hread, hcnt⟩, rfl⟩

theorem exec_payLast_of_reading {s : State} (hrun : Running s) (hread : s.fs.state = .readingPayload)
    (hcnt : s.fs.cnt + 1 = s.cfg.payloadSize) (b : Byte) : exec (.payLast b) s = .next (takePayLast b s) :=
  execPayLast_eq_next.2 ⟨hrun, fits_payLast.2 ⟨phase_eq_reading.2 hread, hcnt⟩, rfl⟩

theorem exec_rxb_refused_of_resting {s : State} (b : Byte)
    (hrest : s.fs.state = .halted ∨ s.fs.state = .stopped ∨ s.fs.state = .fatal) : ∃ q, exec (.rxb b) s = .refused q := by
  by_cases hrun : Running s
  · rw [exec_rxb_of_running hrun, readByte]
    rcases hrest with h | h | h <;> exact ⟨.readerNotReading, by rw [h]⟩
  · exact whenRunning_of_not_running hrun _

/-- Settles O9: the byte and the row `SOF` both leave `takeSof s`. -/
theorem markerStartsPayloadRead : Obligations.MarkerStartsPayloadRead := by
  intro s b hrun hseek hfill hmarker
  have hmatch := windowMatches_of_marker hfill hmarker
  exact ⟨(exec_rxb_of_running hrun b).trans (readByte_of_match hseek hmatch), exec_sof_of_match hrun hseek hmatch⟩

/-- Settles O11: one byte does not fill an empty window (`windowMatches_of_empty`), so it slides in. -/
theorem emptyWindowMatchesNothing : Obligations.EmptyWindowMatchesNothing := by
  intro s b hrun hseek hempty
  have hno : windowMatches s.fs.win s.fs.wcnt b s.cfg.m0 s.cfg.m1 = false := by
    rw [hempty]
    exact windowMatches_of_empty _ _ _ _
  refine ⟨takeSkip b s, (exec_rxb_of_running hrun b).trans (readByte_of_no_match hseek hno), hseek, ?_,
    shiftWindow_newer s.fs.win b⟩
  show fillAfter s.fs.wcnt = 1
  rw [hempty]
  rfl

/-- Settles O12: the byte and the row `PAY` both leave `takePay b s`, which writes one byte (`takePay_eq`). -/
theorem payloadByteIsStored : Obligations.PayloadByteIsStored := by
  intro s b hrun hread hcnt
  rw [exec_rxb_of_running hrun, readByte_of_pay hread hcnt, exec_pay_of_reading hrun hread hcnt, takePay_eq]
  exact ⟨rfl, rfl⟩

/-- Settles O13: both rows leave `takePayLast b s`, which appends the Frame where there is room. -/
theorem lastPayloadByteEmitsFrame : Obligations.LastPayloadByteEmitsFrame := by
  intro s b hrun hread hcnt hroom
  rw [exec_rxb_of_running hrun, readByte_of_payLast hread hcnt, exec_payLast_of_reading hrun hread hcnt,
    takePayLast_of_room hroom]
  exact ⟨rfl, rfl⟩

/-- Settles O14: both rows leave `takePayLast b s`, which counts and reports the drop where the queue is full. -/
theorem fullIngressQueueDropsFrame : Obligations.FullIngressQueueDropsFrame := by
  intro s b hrun hread hcnt hfull
  rw [exec_rxb_of_running hrun, readByte_of_payLast hread hcnt, exec_payLast_of_reading hrun hread hcnt,
    takePayLast_of_full hfull]
  exact ⟨rfl, rfl⟩

/-- Settles O15: `readTimeout` in its two live states. -/
theorem timeoutReportsAndEndsTheIteration : Obligations.TimeoutReportsAndEndsTheIteration := by
  intro s hrun
  rw [exec_tmo_of_running hrun]
  exact ⟨fun hseek => readTimeout_eq_next.2 (.inl ⟨hseek, rfl⟩), fun hread => readTimeout_eq_next.2 (.inr ⟨hread, rfl⟩)⟩

/-- Settles O8: in each state and at each place R67 names, the byte and its row leave one state (`readByte_of_match` and its
companions); what a last byte does to the queue and the log is `takePayLast_of_room` and `takePayLast_of_full`. -/
theorem receivedByteIsDecodedByState : Obligations.ReceivedByteIsDecodedByState := by
  refine fun s b => ⟨fun hrun hseek => ⟨fun hmatch => ?_, fun hno => ?_⟩, fun hrun hread => ⟨fun hcnt => ?_, fun hcnt => ?_⟩,
    exec_rxb_refused_of_resting b⟩
  · have hm := windowMatches_iff.2 hmatch
    have hrxb := (exec_rxb_of_running hrun b).trans (readByte_of_match hseek hm)
    exact ⟨hrxb.trans (exec_sof_of_match hrun hseek hm).symm, _, hrxb, rfl⟩
  · have hm := windowMatches_eq_false_iff.2 hno
    have hrxb := (exec_rxb_of_running hrun b).trans (readByte_of_no_match hseek hm)
    exact ⟨hrxb.trans (execSkip_of_no_match hrun hseek hm (.inr rfl)).symm, _, hrxb, hseek, rfl⟩
  · have hrxb := (exec_rxb_of_running hrun b).trans (readByte_of_pay hread hcnt)
    refine ⟨hrxb.trans (exec_pay_of_reading hrun hread hcnt b).symm, _, hrxb, hread, ?_⟩
    rw [takePay_eq]
    rfl
  · have hrxb := (exec_rxb_of_running hrun b).trans (readByte_of_payLast hread hcnt)
    refine ⟨hrxb.trans (exec_payLast_of_reading hrun hread hcnt b).symm, _, hrxb, ?_, ?_, fun hroom => ?_, fun hfull => ?_⟩
    · rw [takePayLast_eq]
      exact fsNext_eq_or s
    · rw [takePayLast_eq]
      rfl
    · rw [takePayLast_of_room hroom]
      exact ⟨rfl, rfl⟩
    · rw [takePayLast_of_full hfull]
      exact ⟨rfl, rfl⟩

/-- Settles O16: the Reader's own refusals, and for each row of the link the condition `Instr.fits` it is run under. -/
theorem linkRowsRefusedWhereTheyDoNotApply : Obligations.LinkRowsRefusedWhereTheyDoNotApply := by
  intro s b hrun
  rw [exec_rxb_of_running hrun, exec_tmo_of_running hrun, readByte, readTimeout]
  refine ⟨fun hrest => ?_, fun hread hcnt => ?_, fun i hfits hgain => ?_⟩
  · rcases hrest with h | h <;> simp only [h, and_self]
  · simp only [hread]
    rw [if_neg (by omega), if_neg (by omega)]
  · cases i with
    | sof | skip | pay | payLast | frame => exact (whenRunning_of_running hrun _).trans (require_of_false hfits _ _)
    | gainq g => exact absurd rfl (hgain g)
    | _ => cases hfits

end Sys2Proof.Machine
end

section
/-! PROOF. Bytes on the wire in a row (R62, R74, R93): a container, a whole Frame, and a Frame that is fetched. -/

namespace Sys2Proof.Machine

/-! ## Runs of several operations -/

theorem execAll_append (l l' : List Instr) (s : State) :
    execAll (l ++ l') s = andThen (execAll l s) (execAll l') := by
  induction l generalizing s with
  | nil => rfl
  | cons i l ih =>
    rw [List.cons_append, execAll, execAll]
    cases exec i s with
    | next t => exact ih t
    | fault f => rfl
    | refused q => rfl

theorem readBytes_append (l l' : List Byte) (s : State) :
    readBytes (l ++ l') s = andThen (readBytes l s) (readBytes l') := by
  induction l generalizing s with
  | nil => rfl
  | cons b l ih =>
    rw [List.cons_append, readBytes, readBytes]
    cases readByte b s with
    | next t => exact ih t
    | fault f => rfl
    | refused q => rfl

/-- A byte never leads to `FATAL` and leaves the configuration and its inputs alone, so the machine goes on running. -/
theorem readByte_running {b : Byte} {s t : State} (hrun : Running s) (h : readByte b s = .next t) : Running t := by
  have hfs : t.fs.state ≠ .fatal := by
    rcases readByte_eq_next.1 h with ⟨-, -, rfl⟩ | ⟨hseek, -, rfl⟩ | ⟨hread, -, rfl⟩ | ⟨-, -, rfl⟩
    · exact FsState.noConfusion
    · exact hrun.2.2
    · exact hrun.2.2
    · rcases fsNext_eq_or s with hnext | hnext <;> simp [takePayLast, hnext]
  rw [readByte_frame h]
  exact ⟨hrun.1, hrun.2.1, hfs⟩

theorem execAll_opsBytes {s : State} (hrun : Running s) (l : List Byte) : execAll (opsBytes l) s = readBytes l s := by
  induction l generalizing s with
  | nil => rfl
  | cons b l ih =>
    rw [opsBytes, List.map_cons, execAll, exec_rxb_of_running hrun, readBytes]
    cases h : readByte b s with
    | next t => exact ih (readByte_running hrun h)
    | fault f => rfl
    | refused q => rfl

/-- A machine that does not run refuses for the same reason whatever is asked of it. -/
theorem whenRunning_eq_andThen {s : State} (hrun : ¬ Running s) (k k' : Result) (f : State → Result) :
    whenRunning s k = andThen (whenRunning s k') f := by
  cases hq : notRunning s with
  | none => exact absurd ((notRunning_eq_none_iff s).1 hq) hrun
  | some q => simp only [whenRunning, hq, andThen]

/-- The bytes of a format row, delivered as one operation or byte by byte. -/
theorem whenRunning_readBytes_cons (b : Byte) (l : List Byte) (s : State) :
    whenRunning s (readBytes (b :: l) s) = execAll (opsBytes (b :: l)) s := by
  by_cases hrun : Running s
  · rw [whenRunning_of_running hrun, execAll_opsBytes hrun]
  · exact whenRunning_eq_andThen hrun _ _ _

theorem exec_frame_eq_execAll {s : State} {payload : List Byte} (h : payload.length = s.cfg.payloadSize) :
    exec (.frame payload) s = execAll (opsFrame s.cfg payload) s := by
  have hfits : Instr.fits s.linkCtx (.frame payload) = true := fits_frame.2 h
  rw [exec, execFrame, require_of_true hfits]
  exact whenRunning_readBytes_cons s.cfg.m0 (s.cfg.m1 :: payload) s

/-- Settles O17: both rows run their bytes, which is the script of those bytes (`whenRunning_readBytes_cons`). -/
theorem wireFormatsAreTheirBytes : Obligations.WireFormatsAreTheirBytes :=
  fun s => ⟨fun g v => whenRunning_readBytes_cons (v.extractLsb' 0 8) [v.extractLsb' 8 8, v.extractLsb' 16 8, g] s,
    fun _ => exec_frame_eq_execAll⟩

/-! ## Bytes inside a payload (R85) -/

/-- The buffer after bytes are stored from index `i` on, in arrival order. -/
def storeBytes (buf : List Byte) (i : Nat) : List Byte → List Byte
  | [] => buf
  | b :: l => storeBytes (buf.set i b) (i + 1) l

/-- The Frame Synchronizer's registers after bytes inside a payload. -/
def fsStored (l : List Byte) (f : Fs) : Fs := { f with buf := storeBytes f.buf f.cnt l, cnt := f.cnt + l.length }

theorem fsStored_cons (b : Byte) (l : List Byte) (s : State) :
    (takePay b s).setFs (fsStored l (takePay b s).fs) = s.setFs (fsStored (b :: l) s.fs) := by
  simp only [takePay_eq, State.setFs, fsStored, storeBytes, List.length_cons, Nat.add_assoc, Nat.add_comm 1]

theorem readBytes_of_payload (l : List Byte) {s : State} (hread : s.fs.state = .readingPayload)
    (hcnt : s.fs.cnt + l.length < s.cfg.payloadSize) : readBytes l s = .next (s.setFs (fsStored l s.fs)) := by
  induction l generalizing s with
  | nil => rfl
  | cons b l ih =>
    rw [List.length_cons] at hcnt
    have hrest : (takePay b s).fs.cnt + l.length < (takePay b s).cfg.payloadSize := by
      simp only [takePay_eq, State.setFs_fs, State.setFs_cfg]
      omega
    rw [readBytes, readByte_of_pay hread (by omega), andThen, ih (s := takePay b s) hread hrest, fsStored_cons]

/-- The bytes up to the end of the payload: the last one completes the Frame. -/
theorem readBytes_to_last (body : List Byte) (b : Byte) {s : State} (hread : s.fs.state = .readingPayload)
    (hcnt : s.fs.cnt + (body.length + 1) = s.cfg.payloadSize) :
    readBytes (body ++ [b]) s = .next (takePayLast b (s.setFs (fsStored body s.fs))) := by
  have hlast : readByte b (s.setFs (fsStored body s.fs)) = .next (takePayLast b (s.setFs (fsStored body s.fs))) :=
    readByte_of_payLast hread hcnt
  rw [readBytes_append, readBytes_of_payload body hread (by omega), andThen, readBytes, hlast]
  rfl

/-- The places from `i` on hold the bytes stored, and those before it are as they were. -/
theorem take_storeBytes (l : List Byte) {buf : List Byte} {i : Nat} (h : i + l.length ≤ buf.length) :
    (storeBytes buf i l).take (i + l.length) = buf.take i ++ l := by
  induction l generalizing buf i with
  | nil => simp [storeBytes]
  | cons b l ih =>
    rw [List.length_cons] at h
    have hfirst : (buf.set i b).take (i + 1) = buf.take i ++ [b] := by
      rw [List.take_add_one, List.take_set_of_le (Nat.le_refl i), List.getElem?_set_self (by omega)]
      rfl
    have hrest := ih (buf := buf.set i b) (i := i + 1) (by rw [List.length_set]; omega)
    rw [hfirst, List.append_assoc, List.singleton_append] at hrest
    rw [storeBytes, List.length_cons, ← hrest]
    congr 1
    omega

/-- Settles O18: a container is four bytes inside the payload (`readBytes_of_payload`). -/
theorem containerIsStoredLittleEndian : Obligations.ContainerIsStoredLittleEndian := by
  intro s g v hrun hread hcnt
  exact (whenRunning_of_running hrun _).trans (readBytes_of_payload (containerBytes g v) hread hcnt)

/-! ## A whole Frame (R61, R93) -/

/-- From an empty window the two marker bytes start a payload read, whatever the window register holds. -/
theorem readBytes_marker {s : State} (hseek : s.fs.state = .seeking) (hempty : s.fs.wcnt = 0) (l : List Byte) :
    readBytes (s.cfg.m0 :: s.cfg.m1 :: l) s = readBytes l (takeSof (takeSkip s.cfg.m0 s)) := by
  have hno : windowMatches s.fs.win s.fs.wcnt s.cfg.m0 s.cfg.m0 s.cfg.m1 = false := by
    rw [hempty]
    exact windowMatches_of_empty _ _ _ _
  have hmatch : windowMatches (shiftWindow s.fs.win s.cfg.m0) (fillAfter s.fs.wcnt) s.cfg.m1 s.cfg.m0 s.cfg.m1 = true := by
    refine windowMatches_of_marker ?_ (by rw [shiftWindow_newer])
    rw [hempty]
    decide
  rw [readBytes, readByte_of_no_match hseek hno, andThen, readBytes,
    readByte_of_match (s := takeSkip s.cfg.m0 s) hseek hmatch, andThen]

/-- A whole Frame on the wire ends with its last byte, and the Frame handed over is the payload. -/
theorem readBytes_frame_eq {s : State} {payload : List Byte} (hseek : s.fs.state = .seeking) (hempty : s.fs.wcnt = 0)
    (hbuf : s.fs.buf.length = s.cfg.payloadSize) (hlen : payload.length = s.cfg.payloadSize) (hne : payload ≠ []) :
    ∃ (f : Fs) (b : Byte), readBytes (s.cfg.m0 :: s.cfg.m1 :: payload) s = .next (takePayLast b (s.setFs f)) ∧
      completedFrame b (s.setFs f) = payload := by
  obtain ⟨body, b, rfl⟩ : ∃ body b, payload = body ++ [b] := ⟨_, _, (List.dropLast_append_getLast hne).symm⟩
  rw [List.length_append, List.length_singleton] at hlen
  refine ⟨fsStored body (takeSof (takeSkip s.cfg.m0 s)).fs, b, ?_, ?_⟩
  · rw [readBytes_marker hseek hempty]
    exact readBytes_to_last (s := takeSof (takeSkip s.cfg.m0 s)) body b rfl ((Nat.zero_add _).trans hlen)
  · have htake := take_storeBytes body (buf := s.fs.buf) (i := 0) (by omega)
    rw [List.take_zero, List.nil_append] at htake
    rw [completedFrame]
    show (storeBytes s.fs.buf 0 body).take (s.cfg.payloadSize - 1) ++ [b] = body ++ [b]
    rw [show s.cfg.payloadSize - 1 = 0 + body.length by omega, htake]

theorem payloadSize_pos {c : Config} (h : c.legal = true) : 0 < c.payloadSize := by
  simp only [Config.legal, Bool.and_eq_true, decide_eq_true_eq] at h
  omega

theorem ingressDepth_pos {c : Config} (h : c.legal = true) : 0 < c.ingressDepth := by
  simp only [Config.legal, Bool.and_eq_true, decide_eq_true_eq] at h
  omega

/-- Settles O19: the payload is the Frame the last byte hands over (`readBytes_frame_eq`), with room or without. -/
theorem frameOnWireReachesIngressQueue : Obligations.FrameOnWireReachesIngressQueue := by
  intro s payload hrun hseek hempty hbuf hlen
  have hne : payload ≠ [] := List.ne_nil_of_length_pos (hlen ▸ payloadSize_pos hrun.1)
  obtain ⟨f, b, hread, hframe⟩ := readBytes_frame_eq hseek hempty hbuf hlen hne
  refine ⟨takePayLast b (s.setFs f), execFrame_eq_next.2 ⟨hrun, hlen, hread⟩, rfl, rfl, rfl, fun hroom => ?_,
    fun hfull => ?_⟩
  · rw [takePayLast_of_room (s := s.setFs f) hroom, hframe]
    rfl
  · rw [takePayLast_of_full (s := s.setFs f) hfull]
    rfl

/-- Settles O20: the script of the Frame is the row `FRAME` (`exec_frame_eq_execAll`), which leaves the payload alone in the
ingress queue (`frameOnWireReachesIngressQueue`), where `FETCH` takes it. -/
theorem frameThenFetchYieldsCorrectedBlock : Obligations.FrameThenFetchYieldsCorrectedBlock := by
  intro s payload hrun hseek hempty hbuf hlen hiq hidle hstop hnch
  obtain ⟨t, ht, hstate, -, -, hroom, -⟩ := frameOnWireReachesIngressQueue s payload hrun hseek hempty hbuf hlen
  have hqueue := hroom (by rw [hiq]; exact ingressDepth_pos hrun.1)
  rw [hstop, if_neg Bool.false_ne_true] at hstate
  rw [execAll_append, ← exec_frame_eq_execAll hlen, ht]
  obtain ⟨hblock, hsamples⟩ := blockOk_of_frame hlen
  have hfetch : exec .fetch t = .next (fetchFrame payload [] t) := by
    refine execFetch_eq_next.2 ⟨?_, ?_, ?_, payload, [], ?_, rfl⟩
    · refine ⟨?_, ?_, by rw [hstate]; exact FsState.noConfusion⟩ <;> rw [hqueue]
      · exact hrun.1
      · exact hrun.2.1
    · rw [hqueue]; exact hidle
    · rw [hqueue]; exact hstop
    · rw [hqueue, hiq]; rfl
  have hch : t.cfg.nch ≠ 0 := by
    rw [hqueue]
    exact hnch.ne'
  refine ⟨fetchFrame payload [] t, by rw [andThen, execAll, hfetch]; rfl, ?_⟩
  rw [fetchFrame, if_neg hch]
  exact ⟨rfl, rfl, rfl, rfl, hblock, hsamples⟩

end Sys2Proof.Machine
end

section
/-! PROOF. Fan-out and consumers (R114 to R117, R120): what `FETCH`, `PUSH` and `POP` do, where they are refused, and a whole
fan-out. -/

namespace Sys2Proof.Machine

/-! ## `FETCH` (R114) -/

theorem fetchFrame_of_no_channel {s : State} (h : s.cfg.nch = 0) (f : Frame) (rest : List Frame) :
    fetchFrame f rest s = { s with iq := rest } :=
  if_pos h

theorem fetchFrame_of_channel {s : State} (h : s.cfg.nch ≠ 0) (f : Frame) (rest : List Frame) : fetchFrame f rest s =
    { s with iq := rest, pr := { state := .pushing, block := correctBlock (decodePayload f), idx := 0 } } :=
  if_neg h

/-- Settles O26: `FETCH` is enabled and leaves `fetchFrame`, in its two cases. -/
theorem fetchStartsFanout : Obligations.FetchStartsFanout := by
  intro s f rest hrun hidle hstop hiq
  have hfetch : exec .fetch s = .next (fetchFrame f rest s) :=
    execFetch_eq_next.2 ⟨hrun, hidle, hstop, f, rest, hiq, rfl⟩
  rw [hfetch]
  exact ⟨fun h => by rw [fetchFrame_of_no_channel h], fun h => by rw [fetchFrame_of_channel h]⟩

theorem exec_fetch_refused {s : State} (hrun : Running s) (h : fetchEnabled s = false) :
    exec .fetch s = .refused .fetchNotEnabled :=
  (whenRunning_of_running hrun _).trans (require_of_false h _ _)

theorem exec_push_refused {s : State} (hrun : Running s) (h : pushEnabled s = false) :
    exec .push s = .refused .pushNotEnabled :=
  (whenRunning_of_running hrun _).trans (require_of_false h _ _)

/-- Settles O27: each of the stated conditions makes `fetchEnabled` or `pushEnabled` false. -/
theorem fanoutStepsRefusedWhenNotEnabled : Obligations.FanoutStepsRefusedWhenNotEnabled := by
  refine fun s hrun => ⟨fun hoff => exec_fetch_refused hrun ?_, fun hoff => exec_push_refused hrun ?_⟩
  · rcases hoff with h | h | h <;> simp [fetchEnabled, h]
  · rcases hoff with h | h
    · simp [pushEnabled, h]
    · simp [pushEnabled, Nat.not_lt.2 h]

/-! ## `PUSH` (R115, R116) -/

theorem exec_push_of_pushing {s : State} (hrun : Running s) (hpushing : s.pr.state = .pushing)
    (hidx : s.pr.idx < s.cfg.nch) : exec .push s = .next (pushBlock s) :=
  execPush_eq_next.2 ⟨hrun, hpushing, hidx, rfl⟩

theorem pushBlock_of_room {s : State} (h : (s.blocks s.pr.idx).length < s.cfg.cap s.pr.idx) : pushBlock s =
    { s.setBlocks s.pr.idx (s.blocks s.pr.idx ++ [s.pr.block]) with pr := advanceFanout s.pr s.cfg.nch } := by
  rw [pushBlock, offerBlock_of_room h]

/-- Settles O28: the offer to a Channel with room replaces its record (`setBlocks_of_getElem?`). -/
theorem pushAppendsBlock : Obligations.PushAppendsBlock := by
  intro s k hrun hpushing hidx hk hroom
  rw [← blocks_of_getElem? hk] at hroom
  rw [exec_push_of_pushing hrun hpushing hidx, pushBlock_of_room hroom, setBlocks_of_getElem? hk, blocks_of_getElem? hk]
  rfl

/-- A fan-out step writes the Channels, the log and the Processing registers. -/
theorem pushBlock_frame (s : State) : pushBlock s =
    { s with ch := (pushBlock s).ch, diag := (pushBlock s).diag, pr := advanceFanout s.pr s.cfg.nch } := by
  rw [pushBlock, offerBlock_frame]

theorem pushBlock_cfg (s : State) : (pushBlock s).cfg = s.cfg := by rw [pushBlock_frame]

theorem pushBlock_running {s : State} (hrun : Running s) : Running (pushBlock s) := by
  rw [pushBlock_frame]
  exact hrun

theorem length_ch_pushBlock (s : State) : (pushBlock s).ch.length = s.ch.length := offerBlock_length_ch s.pr.idx s

/-- Between `s` and `t` the block `b` was offered to Channel `c` once: appended where there was room, counted as a drop where
there was none. -/
def OfferedOnce (b : Block) (c : Nat) (s t : State) : Prop :=
  ((s.blocks c).length < s.cfg.cap c → t.blocks c = s.blocks c ++ [b] ∧ t.dropCnt c = s.dropCnt c) ∧
  (s.cfg.cap c ≤ (s.blocks c).length →
    t.blocks c = s.blocks c ∧ t.dropCnt c = (s.dropCnt c + 1) % 2 ^ s.cfg.cntW)

/-- Between `s` and `t` Channel `c` kept its blocks and its drop counter. -/
def ChannelKept (c : Nat) (s t : State) : Prop := t.blocks c = s.blocks c ∧ t.dropCnt c = s.dropCnt c

theorem OfferedOnce.trans_kept {b : Block} {c : Nat} {s u t : State} (h : OfferedOnce b c s u) (hk : ChannelKept c u t) :
    OfferedOnce b c s t := by
  rw [OfferedOnce, hk.1, hk.2]
  exact h

theorem ChannelKept.trans_offered {b : Block} {c : Nat} {s u t : State} (hk : ChannelKept c s u) (hcfg : u.cfg = s.cfg)
    (h : OfferedOnce b c u t) : OfferedOnce b c s t := by
  rwa [OfferedOnce, hk.1, hk.2, hcfg] at h

theorem pushBlock_offers {s : State} (h : s.pr.idx < s.ch.length) : OfferedOnce s.pr.block s.pr.idx s (pushBlock s) := by
  refine ⟨fun hroom => ?_, fun hfull => ?_⟩
  · rw [pushBlock_of_room hroom]
    exact ⟨blocks_setBlocks_self h _, dropCnt_setBlocks s _ _ _⟩
  · rw [pushBlock_of_full hfull]
    exact ⟨blocks_raise s _ _, dropCnt_raise_self h⟩

theorem pushBlock_keeps {c : Nat} {s : State} (h : c ≠ s.pr.idx) : ChannelKept c s (pushBlock s) := by
  rcases Nat.lt_or_ge (s.blocks s.pr.idx).length (s.cfg.cap s.pr.idx) with hroom | hfull
  · rw [pushBlock_of_room hroom]
    exact ⟨blocks_setBlocks_ne h _, dropCnt_setBlocks s _ _ _⟩
  · rw [pushBlock_of_full hfull]
    exact ⟨blocks_raise s _ _, dropCnt_raise_ne s fun he => h (Event.channelFull.inj he).symm⟩

/-- What a fan-out that goes on at Channel `s.pr.idx` leaves: the Channels before it kept, the block offered to the others. -/
structure FanoutDone (s t : State) : Prop where
  frame : t = { s with ch := t.ch, pr := { s.pr with idx := 0, state := .idle }, diag := t.diag }
  length_ch : t.ch.length = s.ch.length
  kept : ∀ c < s.pr.idx, ChannelKept c s t
  offered : ∀ c < s.cfg.nch, s.pr.idx ≤ c → OfferedOnce s.pr.block c s t

theorem fanoutDone_of_last {s : State} (hlast : s.pr.idx + 1 = s.cfg.nch) (hlen : s.ch.length = s.cfg.nch) :
    FanoutDone s (pushBlock s) where
  frame := by
    have hframe := pushBlock_frame s
    rwa [advanceFanout, if_neg (by omega)] at hframe
  length_ch := length_ch_pushBlock s
  kept c hc := pushBlock_keeps hc.ne
  offered c hc hidx := by
    obtain rfl : c = s.pr.idx := by omega
    exact pushBlock_offers (by omega)

theorem fanoutDone_of_advance {s t : State} (hmore : s.pr.idx + 1 < s.cfg.nch) (hlen : s.ch.length = s.cfg.nch)
    (h : FanoutDone (pushBlock s) t) : FanoutDone s t := by
  have hadvance : (pushBlock s).pr = { s.pr with idx := s.pr.idx + 1 } := if_pos hmore
  obtain ⟨hframe, hlength, hkept, hoffered⟩ := h
  rw [hadvance] at hkept hoffered hframe
  rw [pushBlock_cfg] at hoffered
  refine ⟨?_, hlength.trans (length_ch_pushBlock s), fun c hc => ?_, fun c hc hidx => ?_⟩
  · rw [hframe, pushBlock_frame]
  · obtain ⟨hb, hd⟩ := hkept c (Nat.lt_succ_of_lt hc)
    obtain ⟨hb', hd'⟩ := pushBlock_keeps hc.ne
    exact ⟨hb.trans hb', hd.trans hd'⟩
  · rcases hidx.eq_or_lt with rfl | hlt
    · exact (pushBlock_offers (by omega)).trans_kept (hkept _ (Nat.lt_succ_self _))
    · exact (pushBlock_keeps hlt.ne').trans_offered (pushBlock_cfg s) (hoffered c hc hlt)

/-- The rest of a fan-out runs through, by induction on the Channels left. -/
theorem execAll_push (n : Nat) {s : State} (hrun : Running s) (hpushing : s.pr.state = .pushing)
    (hidx : s.pr.idx + (n + 1) = s.cfg.nch) (hlen : s.ch.length = s.cfg.nch) :
    ∃ t, execAll (List.replicate (n + 1) .push) s = .next t ∧ FanoutDone s t := by
  induction n generalizing s with
  | zero =>
    refine ⟨pushBlock s, ?_, fanoutDone_of_last hidx hlen⟩
    rw [List.replicate_one, execAll, exec_push_of_pushing hrun hpushing (by omega)]
    rfl
  | succ n ih =>
    have hmore : s.pr.idx + 1 < s.cfg.nch := by omega
    have hadvance : (pushBlock s).pr = { s.pr with idx := s.pr.idx + 1 } := if_pos hmore
    obtain ⟨t, ht, hdone⟩ := ih (pushBlock_running hrun) (by rw [hadvance]; exact hpushing)
      (by rw [hadvance, pushBlock_cfg, ← hidx]; show s.pr.idx + 1 + (n + 1) = _; omega)
      (by rw [length_ch_pushBlock, pushBlock_cfg, hlen])
    refine ⟨t, ?_, fanoutDone_of_advance hmore hlen hdone⟩
    rw [List.replicate_succ, execAll, exec_push_of_pushing hrun hpushing (by omega)]
    exact ht

/-- Settles O30: a fan-out that begins at Channel 0 offers the block to all of them (`execAll_push`). -/
theorem fanoutOffersBlockToEveryChannel : Obligations.FanoutOffersBlockToEveryChannel := by
  intro s hrun hpushing hidx hnch hlen
  obtain ⟨n, hn⟩ := Nat.exists_eq_succ_of_ne_zero hnch.ne'
  obtain ⟨t, ht, hdone⟩ := execAll_push n hrun hpushing (by rw [hidx, hn]; exact Nat.zero_add _) hlen
  rw [hn]
  refine ⟨t, ht, hdone.frame, by rw [hdone.length_ch, hlen, hn], fun c hc => ?_⟩
  exact hdone.offered c (hn ▸ hc) (hidx ▸ Nat.zero_le c)

/-! ## `POP` (R111, R120) -/

/-- Settles O31: the answer is the head of the Channel's blocks and what is left the tail (`popQueue_fst`, `popQueue_snd`). -/
theorem popTakesOldestBlock : Obligations.PopTakesOldestBlock := by
  intro s c k hrun hc hpb hk
  refine execPop_eq_next.2 ⟨hrun, hc, hpb, ?_⟩
  rw [popChannel, popQueue_fst, popQueue_snd, setBlocks_of_getElem? hk, blocks_of_getElem? hk]

/-- Settles O32: the two conditions of `POP`, each false. -/
theorem popRefusedOutsideOwnChannel : Obligations.PopRefusedOutsideOwnChannel := by
  refine fun s c hrun => ⟨fun hc => ?_, fun hpb hc => ?_⟩
  · exact (whenRunning_of_running hrun _).trans (require_of_false (decide_eq_false (Nat.not_lt.2 hc)) _ _)
  · refine (whenRunning_of_running hrun _).trans ((require_of_true (decide_eq_true hc) _ _).trans ?_)
    exact require_of_false (decide_eq_false (not_not_intro hpb)) _ _

end Sys2Proof.Machine
end

section
/-! PROOF. The Playback Engine (R130 to R145): where its operations are refused, what one drain step and the end of a call
leave, and a whole call by the number of blocks it drains. -/

namespace Sys2Proof.Machine

/-! ## The operations, while the machine runs with an engine -/

theorem whenRunning_withPlayback {s : State} {c : Nat} (hrun : Running s) (hpb : s.cfg.pbCh = some c)
    (k : Nat → Result) : whenRunning s (withPlayback s k) = k c :=
  (whenRunning_of_running hrun _).trans (withPlayback_of_some hpb k)

theorem exec_rbegin_of_running {s : State} {c : Nat} (hrun : Running s) (hpb : s.cfg.pbCh = some c) (n : Nat) :
    exec (.rbegin n) s = require (decide (s.pb.state = .idle)) .callsOverlap (.next (beginRender n c s)) :=
  whenRunning_withPlayback hrun hpb _

theorem exec_rpop_of_running {s : State} {c : Nat} (hrun : Running s) (hpb : s.cfg.pbCh = some c) :
    exec .rpop s = require (rpopEnabled c s) .rpopNotEnabled (.next (drainBlock c s)) :=
  whenRunning_withPlayback hrun hpb _

theorem exec_rend_of_running {s : State} {c : Nat} (hrun : Running s) (hpb : s.cfg.pbCh = some c) :
    exec .rend s = require (rendEnabled c s) .rendNotEnabled (.next (endRender s)) :=
  whenRunning_withPlayback hrun hpb _

theorem exec_render_of_running {s : State} {c : Nat} (hrun : Running s) (hpb : s.cfg.pbCh = some c) (n : Nat) :
    exec (.render n) s =
      require (decide (s.pb.state = .idle)) .callsOverlap (finishRender c (beginRender n c s)) :=
  whenRunning_withPlayback hrun hpb _

theorem exec_rpop_of_ready {s : State} {c : Nat} (hrun : Running s) (hpb : s.cfg.pbCh = some c) (h : RpopReady c s) :
    exec .rpop s = .next (drainBlock c s) :=
  execRpop_eq_next.2 ⟨hrun, c, hpb, h, rfl⟩

theorem require_next_eq_refused_iff {b : Bool} {q : Refusal} {t : State} :
    require b q (.next t) = .refused q ↔ ¬ b = true := by
  cases b <;> simp [require]

/-- Settles O34: the request latched is `latchedRequest`, which has `NW` bits and is the operand where that fits. -/
theorem rbeginLatchesRequest : Obligations.RbeginLatchesRequest := by
  intro s n c hrun hpb hidle
  refine ⟨latchedRequest s.cfg n, latchedRequest_lt _ _, latchedRequest_of_lt, ?_⟩
  exact (exec_rbegin_of_running hrun hpb n).trans (require_of_true (decide_eq_true hidle) _ _)

/-- Settles O35: the Channel's record is replaced (`setBlocks_of_getElem?`), the block appended (`drainBlock_of_cons`). -/
theorem rpopMovesBlockToAccumulator : Obligations.RpopMovesBlockToAccumulator := by
  intro s c k b rest hrun hpb hready hk hblocks
  have hcons : s.blocks c = b :: rest := (blocks_of_getElem? hk).trans hblocks
  rw [exec_rpop_of_ready hrun hpb hready, drainBlock_of_cons hcons, setBlocks_of_getElem? hk]
  rfl

/-- Settles O39: each step is refused exactly where its condition is false, and the conditions are those of R133 and R134
(`rendEnabled_iff`, `rpopEnabled_iff`). -/
theorem drainStepsRefusedWhenNotEnabled : Obligations.DrainStepsRefusedWhenNotEnabled := by
  intro s c hrun hpb
  rw [exec_rend_of_running hrun hpb, exec_rpop_of_running hrun hpb, require_next_eq_refused_iff,
    require_next_eq_refused_iff, rendEnabled_iff, rpopEnabled_iff]
  exact ⟨.rfl, .rfl⟩

theorem withPlayback_of_none {s : State} (h : s.cfg.pbCh = none) (k : Nat → Result) :
    withPlayback s k = .refused .noPlaybackEngine := by rw [withPlayback, h]

/-- Settles O40: a call in progress makes both conditions false, and without an engine there is no Channel to act on. -/
theorem playbackCallsRefusedWhenNotEnabled : Obligations.PlaybackCallsRefusedWhenNotEnabled := by
  refine fun s n hrun => ⟨fun c hpb hdrain => ?_, fun hnone i hi => ?_⟩
  · have hbusy : decide (s.pb.state = .idle) = false := by simp [hdrain]
    rw [exec_rbegin_of_running hrun hpb, exec_render_of_running hrun hpb]
    exact ⟨require_of_false hbusy _ _, require_of_false hbusy _ _⟩
  · have hrefused (k : Nat → Result) : whenRunning s (withPlayback s k) = .refused .noPlaybackEngine :=
      (whenRunning_of_running hrun _).trans (withPlayback_of_none hnone k)
    simp only [List.mem_cons, List.not_mem_nil, or_false] at hi
    rcases hi with rfl | rfl | rfl | rfl <;> exact hrefused _

/-- Settles O43, by what can block `RPOP`: a full accumulator or a drain that has popped its blocks enables `REND`, and so does
an empty Channel, which by the invariant has nothing left to pop. -/
theorem drainIsNeverStuck : Obligations.DrainIsNeverStuck := by
  intro s c hinv hrun hpb hdrain
  obtain ⟨-, -, -, -, -, -, -, -, hneed, -⟩ := hinv
  have hneed' : s.pb.need ≤ (s.blocks c).length := by
    rw [NeedWithin, hpb] at hneed
    exact hneed hdrain
  have hrend (h : RendReady c s) : ∃ t, exec .rend s = .next t := ⟨_, exec_rend_of_ready hrun hpb h⟩
  by_cases hfull : AccFull s
  · exact .inr (hrend ⟨hdrain, .inl hfull⟩)
  by_cases hempty : s.blocks c = []
  · rw [hempty] at hneed'
    exact .inr (hrend ⟨hdrain, .inr ⟨Nat.le_zero.1 hneed', fun _ => hempty⟩⟩)
  by_cases hsnapshot : s.cfg.drainMode = .snapshot ∧ s.pb.need = 0
  · obtain ⟨hmode, hdone⟩ := hsnapshot
    exact .inr (hrend ⟨hdrain, .inr ⟨hdone, fun hmode' => by rw [hmode] at hmode'; cases hmode'⟩⟩)
  · exact .inl ⟨_, exec_rpop_of_ready hrun hpb ⟨hdrain, hempty, hfull, fun hmode hdone => hsnapshot ⟨hmode, hdone⟩⟩⟩

/-! ## The end of a call (R135, R143, R144) -/

theorem endRender_pb (s : State) : (endRender s).pb = { s.pb with
    out := outputBlock s, acc := s.pb.acc.drop s.pb.req, state := .idle, starved := starvedAfter s,
    underrunCnt := if s.pb.acc.length < s.pb.req then bump s.cfg s.pb.underrunCnt else s.pb.underrunCnt } := by
  rcases Nat.lt_or_ge s.pb.acc.length s.pb.req with hshort | henough
  · rw [endRender_of_underrun hshort, if_pos hshort]
    rfl
  · rw [endRender_of_enough henough, if_neg (Nat.not_lt.2 henough)]
    rfl

theorem endRender_diag (s : State) : (endRender s).diag =
    if s.pb.acc.length < s.pb.req then s.diag ++ [.playbackUnderrun s.pb.acc.length s.pb.req] else s.diag := by
  rcases Nat.lt_or_ge s.pb.acc.length s.pb.req with hshort | henough
  · rw [endRender_of_underrun hshort, if_pos hshort, State.raise_diag]
    rfl
  · rw [endRender_of_enough henough, if_neg (Nat.not_lt.2 henough)]
    rfl

/-- Settles O38: the call ends in `endRender s`, which writes the Playback registers (`endRender_pb`) and the log. -/
theorem rendEndsCallAndSetsStarved : Obligations.RendEndsCallAndSetsStarved := by
  intro s c hrun hpb hready
  refine ⟨endRender s, exec_rend_of_ready hrun hpb hready, ?_, ?_⟩
  · rw [endRender_pb]
    rfl
  · rw [endRender_frame, endRender_pb]

/-! ## A whole drain (R133, R145) -/

/-- From `s` to `t` the `k` oldest blocks of Channel `c` are drained, each when the accumulator had room for it. -/
structure Drains (c k : Nat) (s t : State) : Prop where
  took : TakesOldest c k s t
  frame : t = { s with ch := t.ch, pb := t.pb }
  pb : t.pb = { s.pb with acc := s.pb.acc ++ ((s.blocks c).take k).flatten, need := s.pb.need - k,
                          drained := s.pb.drained + k }
  le : k ≤ (s.blocks c).length
  fitted : ∀ j < k, ∀ a, s.cfg.accCap = some a → (s.pb.acc ++ ((s.blocks c).take j).flatten).length + s.cfg.ns ≤ a

theorem drains_zero (c : Nat) (s : State) : Drains c 0 s s where
  took := takesOldest_zero_of_ch c rfl rfl
  frame := rfl
  pb := by simp
  le := Nat.zero_le _
  fitted j hj := absurd hj (Nat.not_lt_zero j)

theorem accFull_iff {s : State} : AccFull s ↔ ∃ a, s.cfg.accCap = some a ∧ a < s.pb.acc.length + s.cfg.ns := by
  unfold AccFull
  cases s.cfg.accCap <;> simp

theorem Drains.cons {c k : Nat} {s t : State} {b : Block} {rest : List Block} (hready : RpopReady c s)
    (hb : s.blocks c = b :: rest) (h : Drains c k (drainBlock c s) t) : Drains c (k + 1) s t := by
  obtain ⟨-, hne, hroom, -⟩ := hready
  have hfirst := (drainBlock_takesOldest hne).1
  have hrest : (drainBlock c s).blocks c = rest := by rw [hfirst.blocks, if_pos rfl, hb, List.drop_one, List.tail_cons]
  have hpb : (drainBlock c s).pb =
      { s.pb with acc := s.pb.acc ++ b, need := s.pb.need - 1, drained := s.pb.drained + 1 } := by
    rw [drainBlock_of_cons hb]
    rfl
  obtain ⟨htook, hframe, hpb', hle, hfitted⟩ := h
  rw [hrest, hpb] at hpb' hfitted
  rw [hrest] at hle
  refine ⟨Nat.add_comm 1 k ▸ hfirst.trans htook, ?_, ?_, ?_, fun j hj a ha => ?_⟩
  · rw [hframe, drainBlock_frame]
  · rw [hpb', hb]
    simp [Nat.add_assoc, Nat.add_comm 1, Nat.sub_sub]
  · rw [hb]
    exact Nat.succ_le_succ hle
  · cases j with
    | zero => simpa using Nat.le_of_not_lt fun hlt => hroom (accFull_iff.2 ⟨a, ha, hlt⟩)
    | succ j =>
      have hfit := hfitted j (Nat.lt_of_succ_lt_succ hj) a (hfirst.cfg ▸ ha)
      rw [hfirst.cfg] at hfit
      simpa [hb, List.append_assoc] using hfit

/-- A drain with as many blocks to pop as the Channel holds has so after the next one. -/
theorem drainBlock_of_need {c k : Nat} {s : State} (hdrain : s.pb.state = .draining)
    (hlen : (s.blocks c).length = k + 1) (hneed : s.pb.need = k + 1) : (drainBlock c s).pb.state = .draining ∧
      ((drainBlock c s).blocks c).length = k ∧ (drainBlock c s).pb.need = k := by
  have hne : s.blocks c ≠ [] := List.ne_nil_of_length_eq_add_one hlen
  obtain ⟨b, rest, hb⟩ := List.exists_cons_of_ne_nil hne
  have hblocks := (drainBlock_takesOldest hne).1.blocks c
  refine ⟨by rw [drainBlock_of_cons hb]; exact hdrain, ?_, by rw [drainBlock_of_cons hb]; exact Nat.pred_eq_of_eq_succ hneed⟩
  rw [hblocks, if_pos rfl, List.length_drop, hlen, Nat.add_sub_cancel]

/-- A drain that has all its blocks still to pop goes on until the Channel is empty or another block does not fit. -/
theorem drainWhile_drains (c fuel : Nat) {s : State} (hdrain : s.pb.state = .draining)
    (hfuel : (s.blocks c).length = fuel) (hneed : s.pb.need = fuel) :
    ∃ k, Drains c k s (drainWhile c fuel s) ∧ (k < fuel → AccFull (drainWhile c fuel s)) := by
  induction fuel generalizing s with
  | zero => exact ⟨0, drains_zero c s, fun h => absurd h (Nat.lt_irrefl 0)⟩
  | succ fuel ih =>
    rw [drainWhile]
    by_cases hfull : AccFull s
    · have hoff : ¬ rpopEnabled c s = true := fun h => ((rpopEnabled_iff c s).1 h).2.2.1 hfull
      rw [if_neg hoff]
      exact ⟨0, drains_zero c s, fun _ => hfull⟩
    · have hne : s.blocks c ≠ [] := List.ne_nil_of_length_eq_add_one hfuel
      have hready : RpopReady c s := ⟨hdrain, hne, hfull, fun _ => by omega⟩
      obtain ⟨b, rest, hb⟩ := List.exists_cons_of_ne_nil hne
      obtain ⟨hdrain', hlen', hneed'⟩ := drainBlock_of_need hdrain hfuel hneed
      obtain ⟨k, hk, hstop⟩ := ih hdrain' hlen' hneed'
      rw [if_pos ((rpopEnabled_iff c s).2 hready)]
      exact ⟨k + 1, hk.cons hready hb, fun h => hstop (Nat.lt_of_succ_lt_succ h)⟩

theorem rendReady_of_drains {c k : Nat} {s t : State} (h : Drains c k s t) (hdrain : s.pb.state = .draining)
    (hneed : s.pb.need = (s.blocks c).length) (hstop : k < (s.blocks c).length → AccFull t) : RendReady c t := by
  refine ⟨by rw [h.pb]; exact hdrain, ?_⟩
  rcases h.le.lt_or_eq with hlt | heq
  · exact .inl (hstop hlt)
  · refine .inr ⟨by rw [h.pb, hneed, heq, Nat.sub_self], fun _ => ?_⟩
    rw [h.took.blocks, if_pos rfl, heq, List.drop_length]

/-- The call drains `k` blocks and ends. -/
theorem exec_render_eq_next {s : State} {c : Nat} (hrun : Running s) (hpb : s.cfg.pbCh = some c)
    (hidle : s.pb.state = .idle) (n : Nat) : ∃ k u, Drains c k (beginRender n c s) u ∧
      (k < (s.blocks c).length → AccFull u) ∧ exec (.render n) s = .next (endRender u) := by
  obtain ⟨k, hk, hstop⟩ := drainWhile_drains c (s.blocks c).length (s := beginRender n c s) rfl rfl rfl
  exact ⟨k, _, hk, hstop, execRender_eq_next.2 ⟨hrun, c, hpb, hidle, rendReady_of_drains hk rfl rfl hstop, rfl⟩⟩

/-- Settles O41: the call drains some `k` blocks (`exec_render_eq_next`), which `Drains` describes, and ends, which
`endRender_pb` and `endRender_diag` describe. -/
theorem renderDrainsAndReturnsBlock : Obligations.RenderDrainsAndReturnsBlock := by
  intro s n c hrun hpb hidle
  obtain ⟨k, u, hdrains, hstop, hexec⟩ := exec_render_eq_next hrun hpb hidle n
  obtain ⟨htook, hframe, hpbu, hle, hfitted⟩ := hdrains
  have hcfg : u.cfg = s.cfg := htook.cfg
  have hdiag : u.diag = s.diag := by rw [hframe]; rfl
  have hreq : u.pb.req = latchedRequest s.cfg n := by rw [hpbu]; rfl
  have hunder : u.pb.underrunCnt = s.pb.underrunCnt := by rw [hpbu]; rfl
  have hdrained : u.pb.drained = k := by rw [hpbu]; exact Nat.zero_add k
  have hch : (endRender u).ch = u.ch := endRender_ch u
  refine ⟨endRender u, latchedRequest s.cfg n, k, u.pb.acc, hexec, latchedRequest_lt _ _, latchedRequest_of_lt, hle, ?held,
    hfitted, fun hlt => hcfg ▸ accFull_iff.1 (hstop hlt), ?out, ?outLength, ?left, ?idle, ?req, ?drained, ?need, ?underruns,
    ?starved, ?log, ?taken, fun d hd => ?others, fun d => ?drops, ?frame⟩
  case held => rw [hpbu]; rfl
  case out => rw [endRender_pb, ← hreq, ← hcfg]; rfl
  case outLength => rw [endRender_pb, ← hreq]; exact outputBlock_length u
  case left => rw [endRender_pb, ← hreq]
  case idle => rw [endRender_pb]
  case req => rw [endRender_pb]; exact hreq
  case drained => rw [endRender_pb]; exact hdrained
  case need => rw [endRender_pb, hpbu]; rfl
  case underruns => rw [endRender_pb, ← hreq, ← hunder, ← hcfg]; rfl
  case starved => rw [endRender_pb, ← hreq, ← hdrained]; rfl
  case log => rw [endRender_diag, hdiag, hreq]
  case taken => rw [blocks_eq_of_ch hch, htook.blocks, if_pos rfl]; rfl
  case others => rw [blocks_eq_of_ch hch, htook.blocks, if_neg hd]; rfl
  case drops => rw [dropCnt_eq_of_ch hch, htook.dropCnt]; rfl
  case frame => rw [endRender_frame, hframe]; rfl

/-! ## A whole call step by step (R145) -/

theorem drainBlock_running {s : State} (hrun : Running s) (c : Nat) : Running (drainBlock c s) := by
  rw [drainBlock_frame]
  exact hrun

theorem not_accFull_of_unbounded {s : State} (h : s.cfg.accCap = none) : ¬ AccFull s := by
  simp [accFull_iff, h]

/-- With an unbounded accumulator nothing stops the drain before the Channel is empty. -/
theorem execAll_rpop (c k : Nat) {s : State} (hrun : Running s) (hpb : s.cfg.pbCh = some c) (hcap : s.cfg.accCap = none)
    (hdrain : s.pb.state = .draining) (hlen : (s.blocks c).length = k) (hneed : s.pb.need = k) :
    execAll (List.replicate k .rpop) s = .next (drainWhile c k s) := by
  induction k generalizing s with
  | zero => rfl
  | succ k ih =>
    have hne : s.blocks c ≠ [] := List.ne_nil_of_length_eq_add_one hlen
    have hready : RpopReady c s := ⟨hdrain, hne, not_accFull_of_unbounded hcap, fun _ => by omega⟩
    obtain ⟨hdrain', hlen', hneed'⟩ := drainBlock_of_need hdrain hlen hneed
    rw [List.replicate_succ, execAll, exec_rpop_of_ready hrun hpb hready, drainWhile,
      if_pos ((rpopEnabled_iff c s).2 hready)]
    exact ih (drainBlock_running hrun c) (by rw [drainBlock_cfg, hpb]) (by rw [drainBlock_cfg, hcap]) hdrain' hlen' hneed'

theorem drainWhile_running {s : State} (hrun : Running s) (c k : Nat) : Running (drainWhile c k s) :=
  drainWhile_induct (P := fun s t => Running s → Running t) c (fun _ => id) (fun _ _ _ hu ht => ht ∘ hu)
    (fun _ _ h => drainBlock_running h c) k s hrun

theorem andThen_execAll_nil (r : Result) : andThen r (execAll []) = r := by cases r <;> rfl

/-- Settles O42: the steps between are the drain of the whole call (`execAll_rpop`), and `REND` ends both alike. -/
theorem renderIsItsThreePhases : Obligations.RenderIsItsThreePhases := by
  intro s n c hrun hpb hcap hidle
  have hbegin : exec (.rbegin n) s = .next (beginRender n c s) :=
    (exec_rbegin_of_running hrun hpb n).trans (require_of_true (decide_eq_true hidle) _ _)
  have hdrain := execAll_rpop c (s.blocks c).length (s := beginRender n c s) hrun hpb hcap rfl rfl rfl
  have hend := exec_rend_of_running (c := c) (drainWhile_running (s := beginRender n c s) hrun c (s.blocks c).length)
    (by rw [(Atom.drainWhile c _ (beginRender n c s) hpb).2]; exact hpb)
  have hrender := (exec_render_of_running hrun hpb n).trans (require_of_true (decide_eq_true hidle) _ _)
  rw [hrender, execAll, hbegin, andThen, execAll_append, hdrain, andThen, execAll, hend, finishRender]
  exact (andThen_execAll_nil _).symm

end Sys2Proof.Machine
end

section
/-! PROOF. The Controller and the configuration (R6, R36, R150 to R156, R211, R230): what its operations leave, and that all
operations but `RESET` share one condition. -/

namespace Sys2Proof.Machine

/-! ## The common condition (R6, R211, R230) -/

/-- Every operation, class and wire format but `RESET` stands under the common condition; reading an output and presenting a
gain are no operations of an agent. -/
theorem exec_eq_whenRunning {i : Instr} (hreset : ∀ l, i ≠ .reset l) (hsample : ∀ v, i ≠ .samp32 v)
    (hgain : ∀ g, i ≠ .gainq g) (s : State) : ∃ k, exec i s = whenRunning s k := by
  cases i with
  | reset l => exact absurd rfl (hreset l)
  | samp32 v => exact absurd rfl (hsample v)
  | gainq g => exact absurd rfl (hgain g)
  | _ => exact ⟨_, rfl⟩

theorem whenRunning_of_illegal {s : State} (h : s.cfg.legal = false) (k : Result) :
    whenRunning s k = .refused .illegalConfig := by
  rw [whenRunning, notRunning, if_pos h]

theorem whenRunning_of_changed {s : State} (hlegal : s.cfg.legal = true) (h : ¬ InputsStable s) (k : Result) :
    whenRunning s k = .refused .configChanged := by
  have hchanged : s.env.cfgMoved = true ∨ s.env.cfgIn ≠ s.cfg := by
    by_contra hstable
    obtain ⟨hmoved, hin⟩ := not_or.1 hstable
    exact h ⟨Bool.eq_false_of_not_eq_true hmoved, not_not.1 hin⟩
  rw [whenRunning, notRunning, if_neg (by simp [hlegal]), if_pos hchanged]

/-- Settles O52: all these rows stand under the common condition, which is false in `FATAL`. -/
theorem fatalRefusesAllButReset : Obligations.FatalRefusesAllButReset := by
  intro s i hfatal hreset hsample hgain
  obtain ⟨k, hk⟩ := exec_eq_whenRunning hreset hsample hgain s
  rw [hk]
  exact whenRunning_of_not_running (fun hrun => hrun.2.2 hfatal) k

/-- A change of the inputs is remembered, whatever is presented after it. -/
theorem not_inputsStable_of_moved {s : State} {c : Config} (h : c ≠ s.env.cfgIn) (d : Config) :
    ¬ InputsStable (presentConfig d (presentConfig c s)) := by
  rintro ⟨hmoved, -⟩
  simp [h] at hmoved

/-- Settles O53: the two conditions of the common condition that concern the configuration, and that of `RESET`. -/
theorem illegalOrChangedConfigurationIsRefused : Obligations.IllegalOrChangedConfigurationIsRefused := by
  refine fun s i => ⟨fun hreset hsample hgain => ⟨fun hillegal => ?_, fun hlegal hchanged => ?_, fun hlegal c d hc => ?_⟩,
    fun l hillegal => require_of_false hillegal _ _⟩
  · obtain ⟨k, hk⟩ := exec_eq_whenRunning hreset hsample hgain s
    rw [hk, whenRunning_of_illegal hillegal]
  · obtain ⟨k, hk⟩ := exec_eq_whenRunning hreset hsample hgain s
    rw [hk, whenRunning_of_changed hlegal hchanged]
  · obtain ⟨k, hk⟩ := exec_eq_whenRunning hreset hsample hgain (presentConfig d (presentConfig c s))
    rw [hk]
    exact whenRunning_of_changed (s := presentConfig d (presentConfig c s)) hlegal (not_inputsStable_of_moved hc d) k

/-! ## `STOP` and `RESTART` (R150, R152) -/

/-- Settles O49: `STOP` has no condition of its own. -/
theorem stopSetsFlagOnly : Obligations.StopSetsFlagOnly := fun _ hrun => execStop_eq_next.2 ⟨hrun, rfl⟩

/-- Settles O50: the one condition of `RESTART`, true and false. -/
theorem restartReturnsToSearch : Obligations.RestartReturnsToSearch := by
  refine fun s hrun => ⟨fun hhalted => execRestart_eq_next.2 ⟨hrun, hhalted, rfl⟩, fun hother => ?_⟩
  exact (whenRunning_of_running hrun _).trans (require_of_false (decide_eq_false hother) _ _)

/-! ## `RESET` and the inputs (R36, R154, R220) -/

theorem exec_reset_of_legal {s : State} (h : s.env.cfgIn.legal = true) (l : Bool) :
    exec (.reset l) s = .next (State.afterReset s.env.cfgIn l s.env) :=
  require_of_true h _ _

theorem afterReset_getElem? {c : Config} {l : Bool} {e : Env} {d : Nat} {k : Chan}
    (h : (State.afterReset c l e).ch[d]? = some k) : k = { blocks := [], dropCnt := 0 } :=
  List.eq_of_mem_replicate (List.mem_of_getElem? h)

theorem afterReset_blocks (c : Config) (l : Bool) (e : Env) (d : Nat) : (State.afterReset c l e).blocks d = [] := by
  cases h : (State.afterReset c l e).ch[d]? with
  | none => rw [State.blocks, h]
  | some k => rw [blocks_of_getElem? h, afterReset_getElem? h]

theorem afterReset_dropCnt (c : Config) (l : Bool) (e : Env) (d : Nat) : (State.afterReset c l e).dropCnt d = 0 := by
  cases h : (State.afterReset c l e).ch[d]? with
  | none => rw [State.dropCnt, h]
  | some k => rw [dropCnt_of_getElem? h, afterReset_getElem? h]

theorem length_ch_afterReset (c : Config) (l : Bool) (e : Env) : (State.afterReset c l e).ch.length = c.nch :=
  List.length_replicate

/-- Settles O51: a legal configuration is latched in `State.afterReset`, whose Channels are all empty. -/
theorem resetGivesResetState : Obligations.ResetGivesResetState := by
  intro s l hlegal
  refine ⟨_, exec_reset_of_legal hlegal l, rfl, rfl, rfl, rfl, rfl, rfl, rfl, rfl, rfl, length_ch_afterReset _ _ _,
    fun c => ⟨afterReset_blocks _ _ _ c, afterReset_dropCnt _ _ _ c⟩, ?_⟩
  exact ⟨rfl, rfl, rfl, rfl, rfl, rfl, rfl, rfl, rfl, rfl⟩

/-- A configuration with another gain is another configuration. -/
theorem withGain_ne_iff (c : Config) (g : Nat) : ({ c with gain := g } : Config) ≠ c ↔ g ≠ c.gain := by
  refine not_congr ⟨fun h => congrArg Config.gain h, fun h => ?_⟩
  rw [h]

theorem exec_gainq_eq (g : Nat) (s : State) : exec (.gainq g) s = .next { s with env := { s.env with
    cfgIn := { s.env.cfgIn with gain := g }, cfgMoved := s.env.cfgMoved || decide (g ≠ s.env.cfgIn.gain) } } := by
  rw [← decide_eq_decide.2 (withGain_ne_iff s.env.cfgIn g)]
  rfl

theorem decodeGain_eq_ok_iff {x : LinkCtx} {g : Nat} : decodeGain x g = .ok (.gainq g) ↔ g < 2 ^ x.gw := by
  unfold decodeGain
  split
  · next h => exact ⟨fun _ => h, fun _ => rfl⟩
  · next h => exact ⟨fun he => (nomatch he), fun hlt => absurd hlt h⟩

/-- Settles O48: the gain goes to the inputs (`exec_gainq_eq`), which `RESET` latches where they are legal. -/
theorem outputReadsAndGainInput : Obligations.OutputReadsAndGainInput := by
  refine fun s v g l => ⟨rfl, exec_gainq_eq g s, decodeGain_eq_ok_iff, fun hlegal => ?_⟩
  refine ⟨State.afterReset { s.env.cfgIn with gain := g } l (presentConfig { s.env.cfgIn with gain := g } s).env, ?_,
    rfl, rfl, rfl⟩
  exact congrArg (andThen · (execAll [])) (exec_reset_of_legal (s := presentConfig _ s) hlegal l)

/-! ## The end of a run (R156, R211) -/

/-- A quiescent state has nothing to fetch, no block in hand and no call in progress. -/
theorem internal_refused_of_quiescent {s : State} (hq : Quiescent s) {i : Instr} (hi : i.isInternal = true) :
    ∃ q, exec i s = .refused q := by
  obtain ⟨-, hpr, hpb, hiq⟩ := hq
  by_cases hrun : Running s
  · have hengine {q : Refusal} {enabled : Nat → Bool} {t : Nat → State} (hoff : ∀ c, enabled c = false) :
        ∃ q', whenRunning s (withPlayback s fun c => require (enabled c) q (.next (t c))) = .refused q' := by
      rw [whenRunning_of_running hrun]
      cases hc : s.cfg.pbCh with
      | none => exact ⟨_, withPlayback_of_none hc _⟩
      | some c => exact ⟨q, (withPlayback_of_some hc _).trans (require_of_false (hoff c) _ _)⟩
    rcases instr_isInternal_iff.1 hi with rfl | rfl | rfl | rfl
    · exact ⟨_, exec_fetch_refused hrun (by rcases hiq with h | h <;> simp [fetchEnabled, h])⟩
    · exact ⟨_, exec_push_refused hrun (by simp [pushEnabled, hpr])⟩
    · exact hengine fun c => by simp [rpopEnabled, hpb]
    · exact hengine fun c => by simp [rendEnabled, hpb]
  · have hop : (∀ l, i ≠ .reset l) ∧ (∀ v, i ≠ .samp32 v) ∧ ∀ g, i ≠ .gainq g := by
      refine ⟨?_, ?_, ?_⟩ <;> rintro _ rfl <;> cases hi
    obtain ⟨k, hk⟩ := exec_eq_whenRunning hop.1 hop.2.1 hop.2.2 s
    rw [hk]
    exact whenRunning_of_not_running hrun k

theorem internal_input_refused_of_quiescent {s : State} (hq : Quiescent s) {u : Input} (hu : u.isInternal = true) :
    ∃ q, runInput u s = .refused q := by
  obtain ⟨i, hi, hrun⟩ := runInput_of_internal hu s
  rw [hrun]
  exact internal_refused_of_quiescent hq hi

/-- Where only internal operations are left, a quiescent state ticks or is refused. -/
theorem step_of_quiescent_done {s t : State} (hq : Quiescent s) (hdone : OutsideDone s) (h : step s = .next t) :
    t = s.ticked := by
  cases hscript : s.env.script with
  | nil =>
    cases hc : freeChoice s with
    | none =>
      rw [step_of_no_freeChoice hscript hc] at h
      exact next_eq_next.1 h
    | some u =>
      rw [step_of_freeChoice hscript hc] at h
      have hint : u.isInternal = true := (freeChoice_eq_some.1 hc).2.resolve_left (by simp [hdone.2])
      obtain ⟨q, hrefused⟩ := internal_input_refused_of_quiescent (s := s.ticked) hq hint
      rcases freeStep_eq_next h with rfl | hr
      · rfl
      · rw [hrefused] at hr
        cases hr
  | cons u rest =>
    have hint : u.isInternal = true := hdone.1 u (by rw [hscript]; exact List.mem_cons_self)
    obtain ⟨q, hrefused⟩ := internal_input_refused_of_quiescent (s := s.withScript rest) hq hint
    rw [step_of_script hscript, hrefused] at h
    split at h <;> cases h

/-- In `FATAL` an input goes to the outside only, or is a `RESET`. -/
theorem runInput_of_fatal {u : Input} {s t : State} (hfatal : s.fs.state = .fatal) (h : runInput u s = .next t) :
    t = { s with env := t.env } ∨
      ∃ (c : Config) (l : Bool) (e : Env), c.legal = true ∧ t = State.afterReset c l e := by
  rcases runInput_eq_next h with ⟨c, -, rfl⟩ | ⟨i, -, hi⟩
  · exact .inl rfl
  · cases i with
    | reset l =>
      obtain ⟨hlegal, rfl⟩ := execReset_eq_next.1 hi
      exact .inr ⟨_, l, _, hlegal, rfl⟩
    | samp32 v =>
      cases hi
      exact .inl rfl
    | gainq g =>
      cases hi
      exact .inl rfl
    | _ =>
      exfalso
      exact (whenRunning_eq_next.1 hi).1.2.2 hfatal

/-- In `FATAL` the run is over whatever the outside holds. -/
theorem runOver_of_env {s t : State} (h : RunOver s) (hfatal : s.fs.state = .fatal) (ht : t = { s with env := t.env }) :
    RunOver t := by
  rw [ht]
  exact ⟨h.1, .inr hfatal⟩

theorem step_of_fatal {s t : State} (hfatal : s.fs.state = .fatal) (h : step s = .next t) :
    t = { s with env := t.env } ∨
      ∃ (c : Config) (l : Bool) (e : Env), c.legal = true ∧ t = State.afterReset c l e := by
  rcases step_eq_next h with rfl | ⟨u, s', hs', hr⟩
  · exact .inl rfl
  · have hframe : s' = { s with env := s'.env } := by rcases hs' with rfl | ⟨rest, rfl⟩ <;> rfl
    have hfatal' : s'.fs.state = .fatal := by rw [hframe]; exact hfatal
    refine (runInput_of_fatal hfatal' hr).imp_left fun ht => ?_
    rw [ht, hframe]

/-- Settles O54: a quiescent state has no internal step (`internal_refused_of_quiescent`); a run that is over only ticks where
the outside is done (`step_of_quiescent_done`), and else is in `FATAL` (`step_of_fatal`). -/
theorem quiescentStateHasNoInternalStep : Obligations.QuiescentStateHasNoInternalStep := by
  have hticked {s : State} (hover : RunOver s) (hdone : OutsideDone s) : RunOver s.ticked ∧ OutsideDone s.ticked :=
    ⟨⟨hover.1, .inl hdone⟩, hdone⟩
  refine fun s => ⟨fun hq i hi => ?_, fun hover t ht => ?_, fun hover hdone t ht => ?_,
    fun hover hdone hscript hlegal hin => ?_⟩
  · refine internal_refused_of_quiescent hq (instr_isInternal_iff.2 ?_)
    simpa using hi
  · rcases hover.2 with hdone | hfatal
    · obtain rfl := step_of_quiescent_done hover.1 hdone ht
      exact .inl ⟨(hticked hover hdone).1, rfl⟩
    · exact (step_of_fatal hfatal ht).imp (fun h => ⟨runOver_of_env hover hfatal h, h⟩) fun h => ⟨hfatal, h⟩
  · obtain rfl := step_of_quiescent_done hover.1 hdone ht
    exact ⟨(hticked hover hdone).1, (hticked hover hdone).2, rfl⟩
  · obtain ⟨t, ht⟩ := (freeStepRunsWhatIsEnabled s hscript).2.2 hlegal hin
    rw [ht, step_of_quiescent_done hover.1 hdone ht]
    rfl

end Sys2Proof.Machine
end

section
/-! PROOF. Ownership (R10, R40): for the operations of each agent, the fields they write. -/

namespace Sys2Proof.Machine

theorem fetchFrame_frame (f : Frame) (rest : List Frame) (s : State) :
    fetchFrame f rest s = { s with iq := rest, pr := (fetchFrame f rest s).pr } := by
  unfold fetchFrame
  split <;> rfl

theorem drainWhile_frame (c k : Nat) (s : State) :
    drainWhile c k s = { s with ch := (drainWhile c k s).ch, pb := (drainWhile c k s).pb } :=
  drainWhile_induct (P := fun s t => t = { s with ch := t.ch, pb := t.pb }) c (fun _ => rfl)
    (fun _ _ _ hu ht => by rw [ht, hu]) (fun s _ => drainBlock_frame c s) k s

/-- The Playback Engine writes its registers and the log, and takes blocks out of its own Channel. -/
theorem exec_playback_frame {i : Instr} {s t : State} (hi : i.agent = .playback) (h : exec i s = .next t) :
    t = { s with ch := t.ch, pb := t.pb, diag := t.diag } ∧
      ∃ d n, s.cfg.pbCh = some d ∧ TakesOldest d n s t := by
  cases i with
  | render n =>
    obtain ⟨d, hd, htake⟩ := execRender_takesOldest h
    obtain ⟨-, c, -, -, -, rfl⟩ := execRender_eq_next.1 h
    refine ⟨?_, d, _, hd, htake⟩
    rw [endRender_frame, drainWhile_frame]
    rfl
  | rbegin n =>
    obtain ⟨-, d, hd, -, rfl⟩ := execRbegin_eq_next.1 h
    exact ⟨rfl, d, 0, hd, takesOldest_zero_of_ch d rfl rfl⟩
  | rpop =>
    obtain ⟨-, d, hd, ⟨-, hne, -⟩, rfl⟩ := execRpop_eq_next.1 h
    refine ⟨?_, d, 1, hd, (drainBlock_takesOldest hne).1⟩
    rw [drainBlock_frame]
  | rend =>
    obtain ⟨-, d, hd, -, rfl⟩ := execRend_eq_next.1 h
    refine ⟨?_, d, 0, hd, takesOldest_zero_of_ch d (endRender_cfg s) (endRender_ch s)⟩
    rw [endRender_frame]
  | _ => cases hi

/-- Settles O60, by what the operations of each agent write: `exec_reader_frame`, `fetchFrame_frame`, `pushBlock_frame`,
`popChannel_takesOldest`,
`exec_playback_frame`, and the Controller's operations themselves. -/
theorem onlyOwnersWrite : Obligations.OnlyOwnersWrite := by
  intro i s t h hreset
  cases i
  case rxb | tmo | sof | skip | pay | payLast | cont32 | frame =>
    rw [exec_reader_frame rfl h]
    simp [Instr.agent, State.blocks, State.dropCnt]
  case fetch =>
    obtain ⟨-, -, -, f, rest, -, rfl⟩ := execFetch_eq_next.1 h
    rw [fetchFrame_frame]
    simp [Instr.agent]
  case push =>
    obtain ⟨-, -, -, rfl⟩ := execPush_eq_next.1 h
    rw [pushBlock_frame]
    simp [Instr.agent]
  case pop c =>
    obtain ⟨-, -, -, ht⟩ := execPop_eq_next.1 h
    have hframe : t = { s with ch := t.ch, popRsp := t.popRsp } := by rw [ht]; rfl
    have htake : TakesOldest c 1 s t := ht ▸ popChannel_takesOldest c s
    have hothers (d : Nat) (hd : ¬ c = d) : t.blocks d = s.blocks d := by rw [htake.blocks, if_neg (Ne.symm hd)]
    have hdrops := htake.dropCnt
    rw [hframe] at hothers hdrops ⊢
    simpa [Instr.agent, hdrops] using hothers
  case render | rbegin | rpop | rend =>
    obtain ⟨hframe, d, n, hd, htake⟩ := exec_playback_frame rfl h
    have hothers (c : Nat) (hc : s.cfg.pbCh ≠ some c) : t.blocks c = s.blocks c := by
      rw [htake.blocks, if_neg]
      rintro rfl
      exact hc hd
    have hdrops := htake.dropCnt
    rw [hframe] at hothers hdrops ⊢
    simpa [Instr.agent, hdrops] using hothers
  case stop =>
    obtain ⟨-, rfl⟩ := execStop_eq_next.1 h
    simp [Instr.agent, State.blocks, State.dropCnt]
  case restart =>
    obtain ⟨-, -, rfl⟩ := execRestart_eq_next.1 h
    simp [Instr.agent, restartReader, State.blocks, State.dropCnt]
  case reset l => exact absurd rfl (hreset l)
  case samp32 | gainq =>
    cases h
    simp [Instr.agent, presentConfig, State.blocks, State.dropCnt]

end Sys2Proof.Machine
end

section
/-! PROOF. The log and its counters (R18, R22, R26, R33, R180): an atomic change raises at most one event, and beside that
leaves the log, the counters and the configuration alone. -/

namespace Sys2Proof.Machine

/-! ## Raising an event writes its counter (R180, R195) -/

theorem bump_mod (c : Config) (n : Nat) : bump c (n % 2 ^ c.cntW) = (n + 1) % 2 ^ c.cntW := Nat.mod_add_mod n _ 1

theorem iqDropCnt_raise (s : State) (e : Event) :
    (s.raise e).iqDropCnt = if e = .ingressFull then bump s.cfg s.iqDropCnt else s.iqDropCnt := by
  cases e <;> rfl

theorem underrunCnt_raise (s : State) (e : Event) :
    (s.raise e).pb.underrunCnt = if e.isUnderrun then bump s.cfg s.pb.underrunCnt else s.pb.underrunCnt := by
  cases e <;> rfl

theorem dropCnt_raise {s : State} {c : Nat} (hc : c < s.ch.length) (e : Event) :
    (s.raise e).dropCnt c = if e = .channelFull c then bump s.cfg (s.dropCnt c) else s.dropCnt c := by
  split
  · next h => rw [h, dropCnt_raise_self hc]
  · next h => exact dropCnt_raise_ne s h

/-- A counter that agrees with the log still does after an event that the counter counts exactly if `p` does. -/
theorem counter_append {c : Config} {p : Event → Bool} {l : List Event} {n : Nat} (e : Event)
    (h : n = l.countP p % 2 ^ c.cntW) :
    (if p e = true then bump c n else n) = (l ++ [e]).countP p % 2 ^ c.cntW := by
  rw [List.countP_append, List.countP_singleton, h]
  split
  · rw [bump_mod]
  · rw [Nat.add_zero]

theorem countersMatchLog_raise {s : State} (h : CountersMatchLog s) (e : Event) : CountersMatchLog (s.raise e) := by
  obtain ⟨hlen, hiq, hunder, hdrop⟩ := h
  rw [CountersMatchLog, State.raise_cfg, State.raise_diag, length_ch_raise]
  refine ⟨hlen, ?_, ?_, fun i hi => ?_⟩
  · rw [List.count_eq_countP]
    simpa only [beq_iff_eq, ← iqDropCnt_raise] using counter_append (p := (· == .ingressFull)) e hiq
  · rw [underrunCnt_raise]
    exact counter_append e hunder
  · rw [dropCnt_raise (hlen ▸ hi), List.count_eq_countP]
    simpa only [beq_iff_eq] using counter_append (p := (· == .channelFull i)) e (hdrop i hi)

/-! ## What leaves the log and the counters alone -/

/-- From `s` to `t` the configuration, the log and every counter are kept. -/
structure SameBooks (s t : State) : Prop where
  cfg : t.cfg = s.cfg
  diag : t.diag = s.diag
  iqDropCnt : t.iqDropCnt = s.iqDropCnt
  underrunCnt : t.pb.underrunCnt = s.pb.underrunCnt
  length_ch : t.ch.length = s.ch.length
  dropCnt : ∀ c, t.dropCnt c = s.dropCnt c

theorem SameBooks.of_ch {s t : State} (hcfg : t.cfg = s.cfg) (hdiag : t.diag = s.diag)
    (hiq : t.iqDropCnt = s.iqDropCnt) (hunder : t.pb.underrunCnt = s.pb.underrunCnt) (hch : t.ch = s.ch) :
    SameBooks s t :=
  ⟨hcfg, hdiag, hiq, hunder, by rw [hch], dropCnt_eq_of_ch hch⟩

theorem SameBooks.of_takesOldest {d n : Nat} {s t : State} (h : TakesOldest d n s t) (hdiag : t.diag = s.diag)
    (hiq : t.iqDropCnt = s.iqDropCnt) (hunder : t.pb.underrunCnt = s.pb.underrunCnt) : SameBooks s t :=
  ⟨h.cfg, hdiag, hiq, hunder, h.length_ch, h.dropCnt⟩

theorem SameBooks.countersMatchLog {s t : State} (h : SameBooks s t) (hs : CountersMatchLog s) : CountersMatchLog t := by
  obtain ⟨hlen, hiq, hunder, hdrop⟩ := hs
  rw [CountersMatchLog, h.cfg, h.diag, h.length_ch, h.iqDropCnt, h.underrunCnt]
  exact ⟨hlen, hiq, hunder, fun i hi => (h.dropCnt i).trans (hdrop i hi)⟩

theorem drainBlock_sameBooks {c : Nat} {s : State} (h : s.blocks c ≠ []) : SameBooks s (drainBlock c s) := by
  refine .of_takesOldest (drainBlock_takesOldest h).1 (by rw [drainBlock_frame]) (by rw [drainBlock_frame]) ?_
  obtain ⟨b, rest, hb⟩ := List.exists_cons_of_ne_nil h
  rw [drainBlock_of_cons hb]
  rfl

/-- `t` is `s` after at most one event, up to what is neither log nor counter nor configuration. -/
def RaisesAtMostOne (s t : State) : Prop :=
  SameBooks s t ∨ ∃ e, e ≠ .alignmentAmbiguous ∧ SameBooks (s.raise e) t

theorem takePayLast_raises (b : Byte) (s : State) : RaisesAtMostOne s (takePayLast b s) := by
  rcases Nat.lt_or_ge s.iq.length s.cfg.ingressDepth with hroom | hfull
  · rw [takePayLast_of_room hroom]
    exact .inl (.of_ch rfl rfl rfl rfl rfl)
  · rw [takePayLast_of_full hfull]
    exact .inr ⟨.ingressFull, Event.noConfusion, .of_ch rfl rfl rfl rfl rfl⟩

theorem pushBlock_raises (s : State) : RaisesAtMostOne s (pushBlock s) := by
  rcases Nat.lt_or_ge (s.blocks s.pr.idx).length (s.cfg.cap s.pr.idx) with hroom | hfull
  · rw [pushBlock_of_room hroom]
    exact .inl ⟨rfl, rfl, rfl, rfl, List.length_modify .., fun c => dropCnt_setBlocks s _ c _⟩
  · rw [pushBlock_of_full hfull]
    exact .inr ⟨.channelFull s.pr.idx, Event.noConfusion, .of_ch rfl rfl rfl rfl rfl⟩

theorem endRender_raises (s : State) : RaisesAtMostOne s (endRender s) := by
  rcases Nat.lt_or_ge s.pb.acc.length s.pb.req with hshort | henough
  · rw [endRender_of_underrun hshort]
    exact .inr ⟨.playbackUnderrun s.pb.acc.length s.pb.req, Event.noConfusion, .of_ch rfl rfl rfl rfl rfl⟩
  · rw [endRender_of_enough henough]
    exact .inl (.of_ch rfl rfl rfl rfl rfl)

theorem Atom.raises {s t : State} (h : Atom s t) : RaisesAtMostOne s t := by
  cases h with
  | byte b s t h =>
    rcases readByte_eq_next.1 h with ⟨-, -, rfl⟩ | ⟨-, -, rfl⟩ | ⟨-, -, rfl⟩ | ⟨-, -, rfl⟩
    · exact .inl (.of_ch rfl rfl rfl rfl rfl)
    · exact .inl (.of_ch rfl rfl rfl rfl rfl)
    · exact .inl (.of_ch rfl rfl rfl rfl rfl)
    · exact takePayLast_raises b s
  | timeout s t h =>
    rcases readTimeout_eq_next.1 h with ⟨-, rfl⟩ | ⟨-, rfl⟩
    · exact .inr ⟨.linkTimeout, Event.noConfusion, .of_ch rfl rfl rfl rfl rfl⟩
    · exact .inr ⟨.frameCorrupt _ _, Event.noConfusion, .of_ch rfl rfl rfl rfl rfl⟩
  | fetch _ f rest hp hq =>
    unfold fetchFrame
    split <;> exact .inl (.of_ch rfl rfl rfl rfl rfl)
  | push _ hp hc => exact pushBlock_raises s
  | pop _ c hc hp => exact .inl (.of_takesOldest (popChannel_takesOldest c s) rfl rfl rfl)
  | drain _ c hc hr => exact .inl (drainBlock_sameBooks hr.2.1)
  | finish _ c hc hr => exact endRender_raises s
  | begin | stop | restart | present => exact .inl (.of_ch rfl rfl rfl rfl rfl)

theorem RaisesAtMostOne.countersMatchLog {s t : State} (h : RaisesAtMostOne s t) (hs : CountersMatchLog s) :
    CountersMatchLog t := by
  rcases h with hsame | ⟨e, -, hsame⟩
  · exact hsame.countersMatchLog hs
  · exact hsame.countersMatchLog (countersMatchLog_raise hs e)

theorem countersMatchLog_afterReset (c : Config) (l : Bool) (e : Env) : CountersMatchLog (State.afterReset c l e) := by
  refine ⟨length_ch_afterReset c l e, ?_, ?_, fun i _ => ?_⟩
  · exact (Nat.zero_mod _).symm
  · exact (Nat.zero_mod _).symm
  · exact (afterReset_dropCnt c l e i).trans (Nat.zero_mod _).symm

/-- Settles O57: an atomic change raises at most one event (`Atom.raises`), which writes the log and its counter together
(`countersMatchLog_raise`); a reset empties both. -/
theorem stepKeepsCountersMatchingLog : Obligations.StepKeepsCountersMatchingLog :=
  fun _ _ => step_keeps (fun _ _ ha => ha.raises.countersMatchLog) (fun _ _ _ => countersMatchLog_afterReset _ _ _)
    fun _ _ => id

/-! ## The log only grows (R33, R191) -/

/-- From `s` to `t` the configuration is kept and the events `es` are appended to the log. -/
structure Appends (es : List Event) (s t : State) : Prop where
  cfg : t.cfg = s.cfg
  diag : t.diag = s.diag ++ es
  noAmbiguous : Event.alignmentAmbiguous ∉ es

theorem Appends.trans {es es' : List Event} {s u t : State} (h : Appends es s u) (h' : Appends es' u t) :
    Appends (es ++ es') s t where
  cfg := h'.cfg.trans h.cfg
  diag := by rw [h'.diag, h.diag, List.append_assoc]
  noAmbiguous hmem := (List.mem_append.1 hmem).elim h.noAmbiguous h'.noAmbiguous

theorem SameBooks.appends {s t : State} (h : SameBooks s t) : Appends [] s t :=
  ⟨h.cfg, by rw [h.diag, List.append_nil], List.not_mem_nil⟩

theorem RaisesAtMostOne.appends {s t : State} (h : RaisesAtMostOne s t) : ∃ es, Appends es s t ∧ es.length ≤ 1 := by
  rcases h with hsame | ⟨e, he, hsame⟩
  · exact ⟨[], hsame.appends, Nat.zero_le 1⟩
  · refine ⟨[e], ⟨by rw [hsame.cfg, State.raise_cfg], by rw [hsame.diag, State.raise_diag], ?_⟩, Nat.le_refl 1⟩
    exact fun hmem => he (List.mem_singleton.1 hmem).symm

theorem exec_appends {i : Instr} {s t : State} (h : exec i s = .next t) (hi : ∀ l, i ≠ .reset l) :
    ∃ es, Appends es s t := by
  have hatoms := exec_atoms h hi
  clear h
  induction hatoms with
  | refl => exact ⟨[], rfl, (List.append_nil _).symm, List.not_mem_nil⟩
  | tail _ ha ih =>
    obtain ⟨es, hes⟩ := ih
    obtain ⟨es', hes', -⟩ := ha.raises.appends
    exact ⟨es ++ es', hes.trans hes'⟩

/-- A whole drain raises nothing. -/
theorem drainWhile_appends (c k : Nat) (s : State) : Appends [] s (drainWhile c k s) :=
  drainWhile_induct (P := Appends []) c (fun _ => ⟨rfl, (List.append_nil _).symm, List.not_mem_nil⟩)
    (fun _ _ _ => Appends.trans) (fun _ hr => (drainBlock_sameBooks hr.2.1).appends) k s

theorem execRender_raises {n : Nat} {s t : State} (h : execRender n s = .next t) :
    ∃ es, Appends es s t ∧ es.length ≤ 1 := by
  obtain ⟨-, c, -, -, -, rfl⟩ := execRender_eq_next.1 h
  have hbegin : Appends [] s (beginRender n c s) := ⟨rfl, (List.append_nil _).symm, List.not_mem_nil⟩
  have hdrain := drainWhile_appends c (s.blocks c).length (beginRender n c s)
  obtain ⟨es, hes, hlen⟩ := (endRender_raises (drainWhile c (s.blocks c).length (beginRender n c s))).appends
  exact ⟨es, hbegin.trans (hdrain.trans hes), hlen⟩

theorem appends_of_owner {i : Instr} {s t : State} (h : exec i s = .next t) (hreset : ∀ l, i ≠ .reset l)
    (howner : i.agent = .controller ∨ i.agent = .consumer ∨ i.agent = .audioSink) : Appends [] s t := by
  obtain ⟨-, -, -, -, -, -, -, -, -, -, -, hdiag, hcfg, -⟩ := onlyOwnersWrite i s t h hreset
  exact ⟨hcfg, by rw [hdiag howner, List.append_nil], List.not_mem_nil⟩

theorem exec_appends_at_most_one {i : Instr} {s t : State} (h : exec i s = .next t) (hreset : ∀ l, i ≠ .reset l)
    (hframe : ∀ p, i ≠ .frame p) (hcont : ∀ g v, i ≠ .cont32 g v) : ∃ es, Appends es s t ∧ es.length ≤ 1 := by
  cases i with
  | rxb b => exact (Atom.byte b s t (execRxb_eq_next.1 h).2).raises.appends
  | sof o b => exact (Atom.byte b s t (sof_eq_readByte h).2).raises.appends
  | skip o b => exact (Atom.byte b s t (skip_eq_readByte h).2).raises.appends
  | pay b => exact (Atom.byte b s t (pay_eq_readByte h).2).raises.appends
  | payLast b => exact (Atom.byte b s t (payLast_eq_readByte h).2).raises.appends
  | tmo => exact (Atom.timeout s t (execTmo_eq_next.1 h).2).raises.appends
  | fetch =>
    obtain ⟨-, hidle, -, f, rest, hiq, rfl⟩ := execFetch_eq_next.1 h
    exact (Atom.fetch s f rest hidle hiq).raises.appends
  | push =>
    obtain ⟨-, -, -, rfl⟩ := execPush_eq_next.1 h
    exact (pushBlock_raises s).appends
  | render n => exact execRender_raises h
  | rbegin n =>
    obtain ⟨-, c, hpb, hidle, rfl⟩ := execRbegin_eq_next.1 h
    exact (Atom.begin s n c hpb hidle).raises.appends
  | rpop =>
    obtain ⟨-, c, hpb, hready, rfl⟩ := execRpop_eq_next.1 h
    exact (Atom.drain s c hpb hready).raises.appends
  | rend =>
    obtain ⟨-, c, -, -, rfl⟩ := execRend_eq_next.1 h
    exact (endRender_raises s).appends
  | pop | stop | restart | samp32 | gainq => exact ⟨[], appends_of_owner h hreset (by simp [Instr.agent]), Nat.zero_le 1⟩
  | reset l => exact absurd rfl (hreset l)
  | cont32 g v => exact absurd rfl (hcont g v)
  | frame p => exact absurd rfl (hframe p)

/-- Settles O58: a chain of atomic changes appends (`exec_appends`); all but the two sequences of bytes append at most one
event (`exec_appends_at_most_one`), and the log tells how many. -/
theorem diagnosticLogOnlyGrows : Obligations.DiagnosticLogOnlyGrows := by
  intro i s t h hreset
  obtain ⟨es, hes⟩ := exec_appends h hreset
  refine ⟨es, hes.diag, hes.noAmbiguous, fun hframe hcont => ?_⟩
  obtain ⟨es', hes', hlen⟩ := exec_appends_at_most_one h hreset hframe hcont
  rwa [List.append_cancel_left (hes.diag.symm.trans hes'.diag)]

/-- Settles O59: every atomic change keeps the configuration. -/
theorem configurationIsConstant : Obligations.ConfigurationIsConstant := by
  intro i s t h hreset
  obtain ⟨es, hes⟩ := exec_appends h hreset
  exact hes.cfg

end Sys2Proof.Machine
end

section
/-! PROOF. The invariant (R37): each part of it is kept by the atomic changes that write what it speaks of, and so by every
step. -/

namespace Sys2Proof.Machine

theorem bump_lt (c : Config) (n : Nat) : bump c n < 2 ^ c.cntW := Nat.mod_lt _ (Nat.two_pow_pos _)

theorem accWithin_iff {s : State} : AccWithin s ↔ ∀ a, s.cfg.accCap = some a → s.pb.acc.length ≤ a := by
  unfold AccWithin
  cases s.cfg.accCap <;> simp

theorem needWithin_iff {s : State} : NeedWithin s ↔
    ∀ c, s.cfg.pbCh = some c → s.pb.state = .draining → s.pb.need ≤ (s.blocks c).length := by
  unfold NeedWithin
  cases s.cfg.pbCh <;> simp

/-! ## The Reader and the ingress queue (R12 to R17) -/

theorem fsOk_afterPayload {s : State} (hpos : 0 < s.cfg.payloadSize) (h : FsOk s) (b : Byte) :
    FsOk (s.setFs (fsAfterPayload b s)) := by
  obtain ⟨-, -, -, -, hbuf⟩ := h
  exact ⟨Nat.zero_le 2, fun _ => rfl, fun _ => rfl, hpos, (List.length_set ..).trans hbuf⟩

theorem readByte_fsOk {b : Byte} {s t : State} (hpos : 0 < s.cfg.payloadSize) (hfs : FsOk s)
    (h : readByte b s = .next t) : FsOk t := by
  have hlast := fsOk_afterPayload hpos hfs b
  obtain ⟨hwcnt, hwindow, hcount, hcnt, hbuf⟩ := hfs
  rcases readByte_eq_next.1 h with ⟨-, -, rfl⟩ | ⟨hseek, -, rfl⟩ | ⟨hread, hlt, rfl⟩ | ⟨-, -, rfl⟩
  · exact ⟨Nat.zero_le 2, fun _ => rfl, fun hne => absurd rfl hne, hpos, hbuf⟩
  · exact ⟨Nat.min_le_right _ 2, fun hne => absurd hseek hne, hcount, hcnt, hbuf⟩
  · rw [takePay_eq]
    exact ⟨hwcnt, hwindow, fun hne => absurd hread hne, hlt, (List.length_set ..).trans hbuf⟩
  · rcases Nat.lt_or_ge s.iq.length s.cfg.ingressDepth with hroom | hfull
    · rw [takePayLast_of_room hroom]
      exact hlast
    · rw [takePayLast_of_full hfull]
      exact hlast

theorem completedFrame_length {s : State} (hbuf : s.fs.buf.length = s.cfg.payloadSize)
    (hcnt : s.fs.cnt + 1 = s.cfg.payloadSize) (b : Byte) : (completedFrame b s).length = s.cfg.payloadSize := by
  rw [completedFrame, List.length_append, List.length_take, List.length_singleton]
  omega

theorem readByte_ingressOk {b : Byte} {s t : State} (hfs : FsOk s) (hiq : IngressOk s) (h : readByte b s = .next t) :
    IngressOk t := by
  obtain ⟨-, -, -, -, hbuf⟩ := hfs
  rcases readByte_eq_next.1 h with ⟨-, -, rfl⟩ | ⟨-, -, rfl⟩ | ⟨-, -, rfl⟩ | ⟨-, hlast, rfl⟩
  · exact hiq
  · exact hiq
  · exact hiq
  · obtain ⟨hlen, hframes, hcnt⟩ := hiq
    rcases Nat.lt_or_ge s.iq.length s.cfg.ingressDepth with hroom | hfull
    · rw [takePayLast_of_room hroom]
      refine ⟨by rw [List.length_append, List.length_singleton]; exact hroom, ?_, hcnt⟩
      exact List.forall_mem_append.2 ⟨hframes, List.forall_mem_singleton.2 (completedFrame_length hbuf hlast b)⟩
    · rw [takePayLast_of_full hfull]
      exact ⟨hlen, hframes, bump_lt _ _⟩

theorem readTimeout_fsOk {s t : State} (hfs : FsOk s) (hpos : 0 < s.cfg.payloadSize) (h : readTimeout s = .next t) :
    FsOk t := by
  obtain ⟨-, -, hcount, hcnt, hbuf⟩ := hfs
  rcases readTimeout_eq_next.1 h with ⟨hseek, rfl⟩ | ⟨-, rfl⟩
  · refine ⟨Nat.zero_le 2, fun _ => rfl, fun _ => hcount ?_, hcnt, hbuf⟩
    rw [hseek]
    exact FsState.noConfusion
  · exact ⟨Nat.zero_le 2, fun _ => rfl, fun _ => rfl, hpos, hbuf⟩

/-! ## The Processing role (R19) -/

theorem ingressOk_tail {s : State} {f : Frame} {rest : List Frame} (h : IngressOk s) (hq : s.iq = f :: rest) :
    IngressOk { s with iq := rest } := by
  obtain ⟨hlen, hframes, hcnt⟩ := h
  rw [hq] at hlen hframes
  exact ⟨(Nat.le_succ _).trans hlen, fun g hg => hframes g (List.mem_cons_of_mem f hg), hcnt⟩

theorem fetchFrame_prOk {s : State} {f : Frame} {rest : List Frame} (hpr : PrOk s)
    (hf : f.length = s.cfg.payloadSize) : PrOk (fetchFrame f rest s) := by
  by_cases hnch : s.cfg.nch = 0
  · rw [fetchFrame_of_no_channel hnch]
    exact hpr
  · rw [fetchFrame_of_channel hnch]
    exact ⟨fun _ => ⟨Nat.pos_of_ne_zero hnch, blockOk_of_frame hf⟩, fun _ => rfl⟩

theorem pushBlock_prOk {s : State} (hpushing : s.pr.state = .pushing) (hpr : PrOk s) : PrOk (pushBlock s) := by
  obtain ⟨-, hblock⟩ := hpr.1 hpushing
  rw [pushBlock_frame, advanceFanout]
  split
  · next hmore => exact ⟨fun _ => ⟨hmore, hblock⟩, fun hidle => by rw [hpushing] at hidle; cases hidle⟩
  · exact ⟨fun h => (nomatch h), fun _ => rfl⟩

/-! ## The Channels (R21, R22) -/

theorem channelsOk_of_takesOldest {d n : Nat} {s t : State} (h : TakesOldest d n s t) (hs : ChannelsOk s) :
    ChannelsOk t := by
  obtain ⟨hlen, hchan⟩ := hs
  rw [ChannelsOk, h.cfg, h.length_ch]
  refine ⟨hlen, fun i hi => ?_⟩
  obtain ⟨hcap, hblocks, hcnt⟩ := hchan i hi
  rw [h.blocks, h.dropCnt]
  split
  · exact ⟨(List.drop_sublist _ _).length_le.trans hcap, fun b hb => hblocks b (List.mem_of_mem_drop hb), hcnt⟩
  · exact ⟨hcap, hblocks, hcnt⟩

theorem pushBlock_channelsOk {s : State} (hidx : s.pr.idx < s.cfg.nch) (hblock : BlockOk s.cfg s.pr.block)
    (hs : ChannelsOk s) : ChannelsOk (pushBlock s) := by
  obtain ⟨hlen, hchan⟩ := hs
  rw [ChannelsOk, pushBlock_cfg, length_ch_pushBlock]
  refine ⟨hlen, fun i hi => ?_⟩
  obtain ⟨hcap, hblocks, hcnt⟩ := hchan i hi
  by_cases hself : i = s.pr.idx
  · obtain ⟨hroom, hfull⟩ := pushBlock_offers (s := s) (hlen ▸ hidx)
    rw [← hself] at hroom hfull
    rcases Nat.lt_or_ge (s.blocks i).length (s.cfg.cap i) with hlt | hge
    · rw [(hroom hlt).1, (hroom hlt).2]
      refine ⟨by rw [List.length_append, List.length_singleton]; exact hlt, ?_, hcnt⟩
      exact List.forall_mem_append.2 ⟨hblocks, List.forall_mem_singleton.2 hblock⟩
    · rw [(hfull hge).1, (hfull hge).2]
      exact ⟨hcap, hblocks, bump_lt _ _⟩
  · rw [(pushBlock_keeps hself).1, (pushBlock_keeps hself).2]
    exact ⟨hcap, hblocks, hcnt⟩

/-- A fan-out step takes no block out of a Channel. -/
theorem length_blocks_le_pushBlock {s : State} (hidx : s.pr.idx < s.ch.length) (c : Nat) :
    (s.blocks c).length ≤ ((pushBlock s).blocks c).length := by
  by_cases hself : c = s.pr.idx
  · subst hself
    obtain ⟨hroom, hfull⟩ := pushBlock_offers hidx
    rcases Nat.lt_or_ge (s.blocks s.pr.idx).length (s.cfg.cap s.pr.idx) with hlt | hge
    · rw [(hroom hlt).1, List.length_append]
      exact Nat.le_add_right _ _
    · rw [(hfull hge).1]
  · rw [(pushBlock_keeps hself).1]

theorem lt_nch_of_blocks_ne_nil {s : State} {c : Nat} (hlen : s.ch.length = s.cfg.nch) (h : s.blocks c ≠ []) :
    c < s.cfg.nch := by
  rw [← hlen]
  exact Nat.lt_of_not_le fun hle => h (blocks_of_length_le hle)

/-! ## The Playback Engine (R23 to R26) -/

/-- Where the Playback registers are kept, only the blocks a drain still has to pop matter. -/
theorem pbOk_of_blocks {s t : State} (hcfg : t.cfg = s.cfg) (hpb : t.pb = s.pb)
    (hblocks : ∀ c, s.cfg.pbCh = some c → (s.blocks c).length ≤ (t.blocks c).length) (h : PbOk s) : PbOk t := by
  rw [PbOk, accWithin_iff, needWithin_iff] at h ⊢
  obtain ⟨hacc, hout, hcap, hneed, hrest⟩ := h
  rw [hcfg, hpb]
  exact ⟨hacc, hout, hcap, fun c hc hd => (hneed c hc hd).trans (hblocks c hc), hrest⟩

theorem beginRender_pbOk {s : State} {c : Nat} (hc : s.cfg.pbCh = some c) (n : Nat) (h : PbOk s) :
    PbOk (beginRender n c s) := by
  obtain ⟨hacc, hout, hcap, -, -, hcnt, -⟩ := h
  refine ⟨hacc, hout, hcap, needWithin_iff.2 fun d hd _ => ?_, latchedRequest_lt s.cfg n, hcnt, fun hidle => (nomatch hidle)⟩
  obtain rfl : c = d := Option.some.inj (hc.symm.trans hd)
  exact Nat.le_refl _

theorem drainBlock_pbOk {s : State} {c : Nat} (hc : s.cfg.pbCh = some c) (hready : RpopReady c s) (hch : ChannelsOk s)
    (h : PbOk s) : PbOk (drainBlock c s) := by
  obtain ⟨hdrain, hne, hroom, -⟩ := hready
  obtain ⟨hlen, hchan⟩ := hch
  obtain ⟨b, rest, hb⟩ := List.exists_cons_of_ne_nil hne
  have hrest := (drainBlock_takesOldest hne).1.blocks c
  rw [if_pos rfl, hb, List.drop_one, List.tail_cons] at hrest
  obtain ⟨-, hblocks, -⟩ := hchan c (lt_nch_of_blocks_ne_nil hlen hne)
  obtain ⟨hns, hsamples⟩ := hblocks b (hb ▸ List.mem_cons_self)
  rw [PbOk, accWithin_iff, needWithin_iff] at h ⊢
  obtain ⟨hacc, hout, -, hneed, hreq, hcnt, -⟩ := h
  have hneed' := hneed c hc hdrain
  rw [drainBlock_cfg]
  refine ⟨?_, ?_, fun a ha => ?_, fun d hd _ => ?_, ?_⟩
  case refine_4 =>
    obtain rfl : c = d := Option.some.inj (hc.symm.trans hd)
    rw [hb, List.length_cons] at hneed'
    rw [hrest, drainBlock_of_cons hb]
    exact Nat.sub_le_of_le_add hneed'
  all_goals rw [drainBlock_of_cons hb]
  · exact List.forall_mem_append.2 ⟨hacc, hsamples⟩
  · exact hout
  · have hfits : s.pb.acc.length + s.cfg.ns ≤ a := Nat.le_of_not_lt fun hlt => hroom (accFull_iff.2 ⟨a, ha, hlt⟩)
    show (s.pb.acc ++ b).length ≤ a
    rwa [List.length_append, hns]
  · exact ⟨hreq, hcnt, fun hidle => by rw [show s.pb.state = _ from hidle] at hdrain; cases hdrain⟩

theorem inInt24_outputBlock (s : State) : ∀ x ∈ outputBlock s, inInt24 x := by
  refine List.forall_mem_append.2 ⟨fun x hx => ?_, fun x hx => ?_⟩
  · obtain ⟨y, -, rfl⟩ := List.mem_map.1 hx
    exact inInt24_gainclip s.cfg y
  · rw [List.eq_of_mem_replicate hx]
    decide

theorem endRender_pbOk {s : State} (h : PbOk s) : PbOk (endRender s) := by
  rw [PbOk, accWithin_iff, needWithin_iff] at h ⊢
  obtain ⟨hacc, -, hcap, -, hreq, hcnt, -⟩ := h
  rw [endRender_cfg, endRender_pb]
  refine ⟨fun x hx => hacc x (List.mem_of_mem_drop hx), inInt24_outputBlock s, fun a ha => ?_,
    fun _ _ hd => (nomatch hd), hreq, ?_, fun _ => outputBlock_length s⟩
  · exact (List.drop_sublist _ _).length_le.trans (hcap a ha)
  · show (if _ then _ else _) < _
    split
    · exact bump_lt _ _
    · exact hcnt

/-! ## Every atomic change and every reset (R36, R37) -/

theorem Atom.keeps_inv {s t : State} (h : Atom s t) (hs : Inv s) : Inv t := by
  obtain ⟨hlegal, hfs, hiq, hpr, hch, hpb⟩ := hs
  have hpos := payloadSize_pos hlegal
  cases h with
  | byte b _ _ h =>
    have hfs' := readByte_fsOk hpos hfs h
    have hiq' := readByte_ingressOk hfs hiq h
    rw [readByte_frame h] at hfs' hiq' ⊢
    exact ⟨hlegal, hfs', hiq', hpr, hch, hpb⟩
  | timeout _ _ h =>
    have hfs' := readTimeout_fsOk hfs hpos h
    rw [readTimeout_frame h] at hfs' ⊢
    exact ⟨hlegal, hfs', hiq, hpr, hch, hpb⟩
  | fetch _ f rest hp hq =>
    have hf : f.length = s.cfg.payloadSize := hiq.2.1 f (hq ▸ List.mem_cons_self)
    have hpr' := fetchFrame_prOk (rest := rest) hpr hf
    rw [fetchFrame_frame] at hpr' ⊢
    exact ⟨hlegal, hfs, ingressOk_tail hiq hq, hpr', hch, hpb⟩
  | push _ hp hc =>
    have hpr' := pushBlock_prOk hp hpr
    have hch' := pushBlock_channelsOk hc (hpr.1 hp).2 hch
    have hpb' : PbOk (pushBlock s) := pbOk_of_blocks (pushBlock_cfg s) (by rw [pushBlock_frame])
      (fun c _ => length_blocks_le_pushBlock (hch.1 ▸ hc) c) hpb
    rw [pushBlock_frame] at hpr' hch' hpb' ⊢
    exact ⟨hlegal, hfs, hiq, hpr', hch', hpb'⟩
  | pop _ c hc hp =>
    have htake := popChannel_takesOldest c s
    have hpb' : PbOk (popChannel c s) := by
      refine pbOk_of_blocks (s := s) rfl rfl (fun d hd => ?_) hpb
      rw [htake.blocks, if_neg]
      rintro rfl
      exact hp hd
    exact ⟨hlegal, hfs, hiq, hpr, channelsOk_of_takesOldest htake hch, hpb'⟩
  | begin _ n c hc hp => exact ⟨hlegal, hfs, hiq, hpr, hch, beginRender_pbOk hc n hpb⟩
  | drain _ c hc hr =>
    have hch' := channelsOk_of_takesOldest (drainBlock_takesOldest hr.2.1).1 hch
    have hpb' := drainBlock_pbOk hc hr hch hpb
    rw [drainBlock_frame] at hch' hpb' ⊢
    exact ⟨hlegal, hfs, hiq, hpr, hch', hpb'⟩
  | finish _ c hc hr =>
    have hpb' := endRender_pbOk hpb
    rw [endRender_frame] at hpb' ⊢
    exact ⟨hlegal, hfs, hiq, hpr, hch, hpb'⟩
  | stop => exact ⟨hlegal, hfs, hiq, hpr, hch, hpb⟩
  | restart _ hs =>
    obtain ⟨-, -, -, -, hbuf⟩ := hfs
    exact ⟨hlegal, ⟨Nat.zero_le 2, fun _ => rfl, fun _ => rfl, hpos, hbuf⟩, hiq, hpr, hch, hpb⟩
  | present _ c => exact ⟨hlegal, hfs, hiq, hpr, hch, hpb⟩

theorem inv_afterReset {c : Config} (h : c.legal = true) (l : Bool) (e : Env) : Inv (State.afterReset c l e) := by
  have hzero (w : Nat) : 0 < 2 ^ w := Nat.two_pow_pos w
  have hnone (x : Sample) (hx : x ∈ ([] : List Sample)) : inInt24 x := nomatch hx
  refine ⟨h, ⟨Nat.zero_le 2, fun _ => rfl, fun _ => rfl, payloadSize_pos h, List.length_replicate⟩,
    ⟨Nat.zero_le _, fun f hf => (nomatch hf), hzero _⟩, ⟨fun hp => (nomatch hp), fun _ => rfl⟩,
    ⟨length_ch_afterReset c l e, fun i _ => ?_⟩, hnone, hnone, accWithin_iff.2 fun _ _ => Nat.zero_le _,
    needWithin_iff.2 fun _ _ hd => (nomatch hd), hzero _, hzero _, fun _ => rfl⟩
  rw [afterReset_blocks, afterReset_dropCnt]
  exact ⟨Nat.zero_le _, fun b hb => (nomatch hb), hzero _⟩

/-- Settles O55: `State.reset` is the state after a reset under the default configuration, which is legal. -/
theorem resetMeetsInvariant : Obligations.ResetMeetsInvariant :=
  ⟨⟨inv_afterReset (by decide) true _, countersMatchLog_afterReset _ true _⟩,
    fun c l e h => ⟨inv_afterReset h l e, countersMatchLog_afterReset c l e⟩⟩

/-- Settles O56: atomic changes keep the invariant (`Atom.keeps_inv`), resets restore it (`inv_afterReset`), and the outside
is no part of it. -/
theorem stepKeepsInvariant : Obligations.StepKeepsInvariant :=
  fun _ _ => step_keeps (fun _ _ => Atom.keeps_inv) (fun _ l h => inv_afterReset h l _) fun _ _ => id

end Sys2Proof.Machine
end
